-- ==== Sys2Proof/Word.lean ====
section
/-! DEFINITION. The bit-vector widths of the block (00_scope.md R6), directions (R10) and a pair indexed by encoder id. -/

namespace Sys2Proof

abbrev Byte := BitVec 8
abbrev Nibble := BitVec 4
/-- A 2-bit encoder pin sample (30_encoding.md R47). -/
abbrev Sample := BitVec 2
/-- A 12-bit ButtonFrame, or the 12 raw pin levels it is made from (R51, R76). -/
abbrev Frame := BitVec 12
/-- The 16-bit outgoing protocol word (R53). -/
abbrev OutWord := BitVec 16
/-- The 32-bit operation word (R57). -/
abbrev OpWord := BitVec 32
/-- The id of one of the two encoder slots (R6, N_ENC = 2). -/
abbrev EncId := Fin 2

/-- A direction, one of -1, 0 and +1 (00_scope.md R10). -/
inductive Dir where
  | neg
  | zero
  | pos
  deriving DecidableEq, Repr, Inhabited

/-- One value for each encoder slot: the only arrays of state are of this shape (10_state.md R16). -/
structure PerEnc (α : Type) where
  e0 : α
  e1 : α
  deriving DecidableEq, Repr

def PerEnc.get {α : Type} (p : PerEnc α) : EncId → α
  | 0 => p.e0
  | 1 => p.e1

def PerEnc.set {α : Type} (p : PerEnc α) (i : EncId) (v : α) : PerEnc α :=
  match i with
  | 0 => ⟨v, p.e1⟩
  | 1 => ⟨p.e0, v⟩

end Sys2Proof
end

