-- ==== Sys2Proof/Config.lean ====
section
/-! DEFINITION. What is fixed for one model instance (parameters R7, R17; configuration R18), the steps the
outside world can ask for, and the free values, which no proof can see. -/

namespace Sys2Proof

/-- The tick rate of the periodic timer (00_scope.md R6, 30_encoding.md R56). -/
inductive TickRate where
  | khz1
  | khz2
  | khz4
  deriving DecidableEq, Repr

/-- The parameter PORTB_NIBBLE (R7, 41_buttons.md R76). -/
inductive PortNibble where
  | low
  | high
  deriving DecidableEq, Repr

/-- The parameter SPI_MODE (R7, 20_memory.md R35): outside the model, no rule reads it. -/
structure SpiMode where
  msbFirst : Bool
  clockIdleHigh : Bool
  sampleOnSecondEdge : Bool
  deriving DecidableEq, Repr

/-- A MapEntry (30_encoding.md R52): a bit index 0..15, or `none` for the sentinel UNMAPPED. -/
abbrev MapEntry := Option (BitVec 4)

/-- A mapping of the twelve buttons (R19). -/
abbrev Mapping := Vector MapEntry 12

/-- `CFG.ButtonMap` once decoded (10_state.md R18): a built-in profile P0..P6, or CUSTOM. -/
inductive ButtonMap where
  | profile (k : Fin 7)
  | custom
  deriving DecidableEq, Repr, Inhabited

/-- `CFG.DeviceComm` (10_state.md R18). DESIGN CHOICE (log 15): `other` is a stored value that is neither,
which the reset check rejects; the spec gives the two values no codes. -/
inductive DeviceComm where
  | usbOnly
  | usbPs2
  | other (code : Nat)
  deriving DecidableEq, Repr

/-- The parameter MASK_OF, a function from DeviceType to a byte, as a table (DESIGN CHOICE, log 15): a run looks
up one DeviceType only, so a table can stand for every function. -/
structure MaskTable where
  byType : List (Nat × Byte)
  otherwise : Byte
  deriving DecidableEq, Repr

/-- The static parameters (00_scope.md R7, 10_state.md R17). Log 1: they stand in State as constants. -/
structure Params where
  qtable : Vector (Vector Byte 4) 6
  evPos : Nibble
  evNeg : Nibble
  profileMap : Vector Mapping 7
  profileForce : Vector OutWord 7
  fbPos : PerEnc (BitVec 4)
  fbNeg : PerEnc (BitVec 4)
  id1 : Byte
  id2 : Byte
  maskTable : MaskTable
  portbNibble : PortNibble
  sentinelCode : Byte
  customCode : Byte
  bootRate : BitVec 2
  pinpair : PerEnc Byte
  /-- A natural of at least 1 (R7), by its type. Timing only (R124, R133): no rule reads it (log 16). -/
  settleCycles : PNat
  /-- Timing only (R99, R133): no rule reads it (log 16). -/
  ackWidth : Nat
  spiMode : SpiMode
  deriving DecidableEq, Repr

/-- The configuration record CFG as it is stored (10_state.md R18); the reset check reads it (60_exceptions.md
R106). `buttonMap` and `customMap` hold stored codes (R52, D47). -/
structure Cfg where
  buttonMap : Byte
  customMap : Vector Byte 12
  rotaryInvert : Nat
  rotaryHold : Nat
  rotaryPPR : Nat
  deviceType : Nat
  deviceComm : DeviceComm
  deriving DecidableEq, Repr

/-- One model instance: the static parameters and the configuration, both constant for a run. -/
structure Inst where
  par : Params
  cfg : Cfg
  deriving DecidableEq, Repr

/-- The levels of the two pins of one encoder's pin pair, true = electrically high (30_encoding.md R47). -/
structure EncoderPins where
  a : Bool
  b : Bool
  deriving DecidableEq, Repr, Inhabited

/-- One step of an agent (00_scope.md R5), with the ENV draws it makes: the port levels of a button read for MAIN
(used in the READ phase only), the encoder pins for TIMER, the master's byte for BUS (log 6). The last three are
ENV's: the two host accessors and the light driver's PINS_OUTPUT (R79). -/
inductive AgentStep where
  | main (port1 port2 : Byte)
  | timer (pins1 pins0 : EncoderPins)
  | bus (mosi : Byte)
  | getDir (e : Byte)
  | getPos (e : Byte)
  | lightsOutput
  deriving DecidableEq, Repr, Inhabited

/-- What the outside world can ask the block to do next: run an operation word issued directly (a test word,
42_composer.md R84), take one received byte as the wire classes of 30_encoding.md R54 see it, or one agent step. -/
inductive Request where
  | word (w : OpWord)
  | wire (b : Byte)
  | agent (a : AgentStep)
  deriving DecidableEq, Repr

/-! ### Free values: constants with no body, applied to a counter of State or to the operands they depend on. -/

/-- `draw(8 bits)` of 00_scope.md R9 (log 4). -/
opaque Config.freeByte : Nat → Byte

/-- Which agent steps next, and with which draws, when no request is pending and MAIN is not due (20_memory.md R43,
log 5). -/
opaque Config.freeStep : Nat → AgentStep

/-- How many steps any agents may take before MAIN is due: finite, by weak fairness, and otherwise open
(70_reset_and_hazards.md R132, log 17). -/
opaque Config.freeWait : Nat → Nat

/-- The levels of the two ports that a due MAIN step draws (41_buttons.md R76, log 6). -/
opaque Config.freePorts : Nat → Byte × Byte

/-- What a QTABLE row 6..15 would hold (log 10): the table has none, and `fsm` never exceeds 5 (10_state.md R22). -/
opaque Config.absentTableRow : Nibble → Sample → Byte

/-- The position after a detent under a PPR outside 1..256 (log 10): rejected at reset (60_exceptions.md R106). -/
opaque Config.posOfIllegalPpr : Nat → Byte → Dir → Byte

/-- The hold loaded from a RotaryHold above 255 (log 10): rejected at reset (R106). -/
opaque Config.holdOfIllegal : Nat → Byte

/-- What a CustomMap code that is neither 0..15 nor the sentinel maps to (log 10): rejected at reset (R106). -/
opaque Config.illegalMapEntry : Byte → MapEntry

/-- The mapping selected by a ButtonMap code that names none (log 10): rejected at reset (R106). -/
opaque Config.illegalButtonMap : Byte → ButtonMap

/-! ### The default table and the example instance of the spec. -/

/-- The default QTABLE of 30_encoding.md R49 (its own words: from general knowledge, not in source). -/
def defaultQTable : Vector (Vector Byte 4) 6 :=
  #v[#v[0x03, 0x02, 0x01, 0x00],
     #v[0x23, 0x00, 0x01, 0x00],
     #v[0x13, 0x02, 0x00, 0x00],
     #v[0x03, 0x05, 0x04, 0x00],
     #v[0x03, 0x03, 0x04, 0x10],
     #v[0x03, 0x05, 0x03, 0x20]]

/-- PROFILE_MAP[0] of EXP (95_test_vectors.md section 0): button i drives bit i. -/
def identityMapping : Mapping :=
  #v[some 0, some 1, some 2, some 3, some 4, some 5, some 6, some 7, some 8, some 9, some 10, some 11]

/-- The parameters of the example set EXP (95_test_vectors.md section 0). DESIGN CHOICE (log 2): State.reset needs one
instance, and what EXP leaves out (PROFILE_MAP[1..6], the stored codes, PORTB_NIBBLE, the timing parameters) is chosen here. -/
def exampleParams : Params where
  qtable := defaultQTable
  evPos := 0x1
  evNeg := 0x2
  profileMap := #v[identityMapping, identityMapping, identityMapping, identityMapping, identityMapping,
    identityMapping, identityMapping]
  profileForce := #v[0x0001, 0x0002, 0, 0, 0, 0, 0]
  fbPos := ⟨4, 5⟩
  fbNeg := ⟨6, 7⟩
  id1 := 0x41
  id2 := 0x5A
  maskTable := ⟨[(0, 0x00), (1, 0xFF)], 0x00⟩
  portbNibble := .low
  sentinelCode := 0xF0
  customCode := 0xF1
  bootRate := 0b10
  pinpair := ⟨0x01, 0x02⟩
  settleCycles := 1
  ackWidth := 1
  spiMode := ⟨false, false, false⟩

/-- The configuration of EXP (95_test_vectors.md section 0): encoder 1 inverted, PPR 24, hold 3, custom map (log 2). -/
def exampleCfg : Cfg where
  buttonMap := 0xF1
  customMap := #v[0, 1, 2, 3, 8, 9, 10, 11, 12, 13, 14, 15]
  rotaryInvert := 0b10
  rotaryHold := 3
  rotaryPPR := 24
  deviceType := 0
  deviceComm := .usbPs2

def exampleInst : Inst := ⟨exampleParams, exampleCfg⟩

end Sys2Proof
end

