-- ==== Sys2Proof/Syntax.lean ====
section
/-! DEFINITION. The syntax: one constructor per row of spec/opcode_table.json. -/

namespace Sys2Proof

/-- The fourteen interface operations (30_encoding.md R59) and the five wire-byte classes (R54).
An encoder id `e` is 8 bits wide, so that out-of-range ids can be expressed (R58).
A wire class is the reception of one byte by the handler; a class that admits several bytes carries the byte (log 7). -/
inductive Instr where
  | qdInit (rate : BitVec 2)
  | qdAttach (e pinpair : Byte)
  | qdTick (e : Byte) (s : Sample)
  | timerIrq (s1 s0 : Sample)
  | qdGetdir (e : Byte)
  | qdGetpos (e : Byte)
  | btnInit
  | btnRead (lv : Frame)
  | pinsOutput
  | cmpLatchdir (e : Byte)
  | cmpPublish
  | ps2Init
  | ps2Rx (b : Byte)
  | ps2Xchg (b : Byte)
  | pollHeader
  | cmdMatch
  | cmdMismatch (b : Byte)
  | data (b : Byte)
  | idle (b : Byte)
  deriving DecidableEq, Repr

end Sys2Proof
end

