-- ==== Sys2Proof/WellFormed.lean ====
section
/-! DEFINITION. Which terms of the syntax stand for something that can be encoded. -/

namespace Sys2Proof

/-- The header byte POLL_HEADER and the command byte CMD_BYTE (00_scope.md R6). -/
def pollHeaderByte : Byte := 0x01
def cmdByte : Byte := 0x42

/-- Every operand value of an operation word is encodable, rate 0b11 and `e ≥ 2` included (30_encoding.md R60).
A wire class excludes the bytes that another class takes first (R54). -/
def Instr.wellFormed : Instr → Bool
  | .qdInit _ => true
  | .qdAttach _ _ => true
  | .qdTick _ _ => true
  | .timerIrq _ _ => true
  | .qdGetdir _ => true
  | .qdGetpos _ => true
  | .btnInit => true
  | .btnRead _ => true
  | .pinsOutput => true
  | .cmpLatchdir _ => true
  | .cmpPublish => true
  | .ps2Init => true
  | .ps2Rx _ => true
  | .ps2Xchg _ => true
  | .pollHeader => true
  | .cmdMatch => true
  | .cmdMismatch b => b != pollHeaderByte && b != cmdByte
  | .data b => b != pollHeaderByte
  | .idle b => b != pollHeaderByte

end Sys2Proof
end

