-- ==== Sys2Proof/Decode.lean ====
section
/-! DEFINITION. The decoder of operation words (30_encoding.md R57 to R60), the classifier of wire bytes (R54),
and the encoder written from the same tables. -/

namespace Sys2Proof

/-- The operation formats (30_encoding.md R58). -/
inductive Format where
  | fNone
  | fRate
  | fE
  | fEP
  | fES
  | fSS
  | fLV
  | fB
  deriving DecidableEq, Repr

/-- The must-be-zero bits of a format: all of bits 23:0 that are in no field (R58). -/
def Format.mustBeZero : Format → OpWord
  | .fNone => 0x00FFFFFF
  | .fRate => 0x00FFFFFC
  | .fE => 0x00FF00FF
  | .fEP => 0x00FF0000
  | .fES => 0x00FF00FC
  | .fSS => 0x00FFFFF0
  | .fLV => 0x00FFF000
  | .fB => 0x00FFFF00

/-- Why a word is illegal (30_encoding.md R60). -/
inductive IllegalWord where
  /-- The opcode is not in the map of R59. -/
  | unassignedOpcode (op : Byte)
  /-- A must-be-zero bit of the opcode's format is 1. -/
  | mustBeZeroSet (op : Byte)
  deriving DecidableEq, Repr

def OpWord.opcode (w : OpWord) : Byte := w.extractLsb' 24 8

/-- Field `e`, bits 15:8 (R58). -/
def OpWord.fieldE (w : OpWord) : Byte := w.extractLsb' 8 8

/-- Bits 7:0, the fields `pinpair` and `b` (R58). -/
def OpWord.low8 (w : OpWord) : Byte := w.extractLsb' 0 8

/-- Bits 1:0, the fields `rate`, `s` and `s0` (R58). -/
def OpWord.low2 (w : OpWord) : BitVec 2 := w.extractLsb' 0 2

/-- Field `s1`, bits 3:2 (R58). -/
def OpWord.fieldS1 (w : OpWord) : Sample := w.extractLsb' 2 2

/-- Field `lv`, bits 11:0 (R58). -/
def OpWord.fieldLV (w : OpWord) : Frame := w.extractLsb' 0 12

/-- A decoded row: the instruction, unless a must-be-zero bit of its format is set (R57). -/
def checked (w : OpWord) (f : Format) (i : Instr) : Except IllegalWord Instr :=
  if w &&& f.mustBeZero = 0 then .ok i else .error (.mustBeZeroSet (OpWord.opcode w))

/-- The decoder: the opcode first, then the must-be-zero bits of its format (R57, opcode map R59). It is total. -/
def decode (w : OpWord) : Except IllegalWord Instr :=
  let op := OpWord.opcode w
  if op = 0x01 then checked w .fRate (.qdInit (OpWord.low2 w))
  else if op = 0x02 then checked w .fEP (.qdAttach (OpWord.fieldE w) (OpWord.low8 w))
  else if op = 0x03 then checked w .fES (.qdTick (OpWord.fieldE w) (OpWord.low2 w))
  else if op = 0x04 then checked w .fSS (.timerIrq (OpWord.fieldS1 w) (OpWord.low2 w))
  else if op = 0x05 then checked w .fE (.qdGetdir (OpWord.fieldE w))
  else if op = 0x06 then checked w .fE (.qdGetpos (OpWord.fieldE w))
  else if op = 0x10 then checked w .fNone .btnInit
  else if op = 0x11 then checked w .fLV (.btnRead (OpWord.fieldLV w))
  else if op = 0x12 then checked w .fNone .pinsOutput
  else if op = 0x20 then checked w .fE (.cmpLatchdir (OpWord.fieldE w))
  else if op = 0x21 then checked w .fNone .cmpPublish
  else if op = 0x30 then checked w .fNone .ps2Init
  else if op = 0x31 then checked w .fB (.ps2Rx (OpWord.low8 w))
  else if op = 0x32 then checked w .fB (.ps2Xchg (OpWord.low8 w))
  else .error (.unassignedOpcode op)

/-- The wire class of a received byte at PS/2 step `k` (30_encoding.md R54): the header at any step, then by step. -/
def classify (k : Fin 6) (b : Byte) : Instr :=
  if b = pollHeaderByte then .pollHeader
  else match k with
    | 1 => if b = cmdByte then .cmdMatch else .cmdMismatch b
    | 5 => .idle b
    | _ => .data b

/-- The steps at which a wire class is the class of its byte (R54); false for an operation word. -/
def Instr.wireAt : Instr → Fin 6 → Bool
  | .pollHeader, _ => true
  | .cmdMatch, k => k == 1
  | .cmdMismatch _, k => k == 1
  | .data _, k => k != 1 && k != 5
  | .idle _, k => k == 5
  | .qdInit _, _ => false
  | .qdAttach _ _, _ => false
  | .qdTick _ _, _ => false
  | .timerIrq _ _, _ => false
  | .qdGetdir _, _ => false
  | .qdGetpos _, _ => false
  | .btnInit, _ => false
  | .btnRead _, _ => false
  | .pinsOutput, _ => false
  | .cmpLatchdir _, _ => false
  | .cmpPublish, _ => false
  | .ps2Init, _ => false
  | .ps2Rx _, _ => false
  | .ps2Xchg _, _ => false

/-- What an instruction is on the outside: a 32-bit operation word, or a byte on the wire. -/
inductive Encoded where
  | opWord (w : OpWord)
  | wireByte (b : Byte)
  deriving DecidableEq, Repr

/-- An operation word of an opcode and its fields (R58). -/
def word (op : Byte) (fields : BitVec 24) : OpWord := op ++ fields

/-- The encoder, from the opcode map R59 and the formats R58. -/
def encode : Instr → Encoded
  | .qdInit rate => .opWord (word 0x01 (0#22 ++ rate))
  | .qdAttach e p => .opWord (word 0x02 (0#8 ++ e ++ p))
  | .qdTick e s => .opWord (word 0x03 (0#8 ++ e ++ 0#6 ++ s))
  | .timerIrq s1 s0 => .opWord (word 0x04 (0#20 ++ s1 ++ s0))
  | .qdGetdir e => .opWord (word 0x05 (0#8 ++ e ++ 0#8))
  | .qdGetpos e => .opWord (word 0x06 (0#8 ++ e ++ 0#8))
  | .btnInit => .opWord (word 0x10 0)
  | .btnRead lv => .opWord (word 0x11 (0#12 ++ lv))
  | .pinsOutput => .opWord (word 0x12 0)
  | .cmpLatchdir e => .opWord (word 0x20 (0#8 ++ e ++ 0#8))
  | .cmpPublish => .opWord (word 0x21 0)
  | .ps2Init => .opWord (word 0x30 0)
  | .ps2Rx b => .opWord (word 0x31 (0#16 ++ b))
  | .ps2Xchg b => .opWord (word 0x32 (0#16 ++ b))
  | .pollHeader => .wireByte pollHeaderByte
  | .cmdMatch => .wireByte cmdByte
  | .cmdMismatch b => .wireByte b
  | .data b => .wireByte b
  | .idle b => .wireByte b

/-- The row of spec/opcode_table.json that a wire byte's BITS select. CMD_MISMATCH, DATA and IDLE have mask 0x00 there
and are told apart by the step alone, so of those three the bits name DATA, the class at step 0 (log 7). -/
def wireRow (b : Byte) : Instr :=
  if b = pollHeaderByte then .pollHeader else if b = cmdByte then .cmdMatch else .data b

/-- The instruction of `nbits` bits `w`, numbered as spec/opcode_table.json numbers them: a row of at most 8 bits
is a byte on the wire, every other row an operation word. -/
def decodeTableWord (nbits w : Nat) : Option Instr :=
  if nbits ≤ 8 then some (wireRow (BitVec.ofNat 8 w)) else (decode (BitVec.ofNat 32 w)).toOption

end Sys2Proof
end

