-- ==== Sys2Proof/Machine/FaultCodes.lean ====
section
/-! DEFINITION. The block's own fault codes and the information recorded with each (60_exceptions.md R104). -/

namespace Sys2Proof.Machine

/-- The seven fault codes (R104). -/
inductive FaultCode where
  | illegalOp
  | badEncoderId
  | notAttached
  | badRate
  | badConfig
  | tableIllformed
  | unwritten
  deriving DecidableEq, Repr

/-- The number of a fault code (R104). -/
def FaultCode.number : FaultCode → Nat
  | .illegalOp => 1
  | .badEncoderId => 2
  | .notAttached => 3
  | .badRate => 4
  | .badConfig => 5
  | .tableIllformed => 6
  | .unwritten => 7

/-- The fields of CFG that the reset check names (R106). -/
inductive CfgField where
  | rotaryPPR
  | rotaryHold
  | buttonMap
  | customMap
  | rotaryInvert
  | deviceComm
  | deviceType
  deriving DecidableEq, Repr

/-- The table and index that the construction check names (R107); the last three are the constraints of
93_implementation_defined.md section 2 on stored codes and the boot rate (log 13). -/
inductive TableSite where
  | evCodes
  | qtable (row column : Nat)
  | fallbackBits
  | profileForce
  | sentinelCode
  | customCode
  | bootRate
  deriving DecidableEq, Repr

/-- The main-loop latches (10_state.md R24) that UNWRITTEN names. -/
inductive Latch where
  | frame
  | d0
  | d1
  deriving DecidableEq, Repr

/-- A fault code together with the information recorded with it (R104). -/
inductive FaultCause where
  | illegalOp (w : OpWord)
  | badEncoderId (e : Byte)
  | notAttached (e : Byte)
  | badRate (code : BitVec 2)
  | badConfig (field : CfgField)
  | tableIllformed (site : TableSite)
  | unwritten (latch : Latch)
  deriving DecidableEq, Repr

def FaultCause.code : FaultCause → FaultCode
  | .illegalOp _ => .illegalOp
  | .badEncoderId _ => .badEncoderId
  | .notAttached _ => .notAttached
  | .badRate _ => .badRate
  | .badConfig _ => .badConfig
  | .tableIllformed _ => .tableIllformed
  | .unwritten _ => .unwritten

end Sys2Proof.Machine
end

