-- ==== Sys2Proof/Machine/Checks.lean ====
section
/-! DEFINITION. How stored configuration codes are read, and the two checks of reset: construction
(60_exceptions.md R107) and configuration (R106). -/

namespace Sys2Proof.Machine

/-- A QTABLE entry, if the table has that row and column. -/
def qentry (p : Params) (row column : Nat) : Option Byte :=
  p.qtable[row]? >>= fun r => r[column]?

/-- Bits 3:0 of a state byte: the next FSM state (30_encoding.md R48). -/
def nextField (t : Byte) : Nibble := t.extractLsb' 0 4

/-- Bits 7:4 of a state byte: the event code (R48). -/
def eventField (t : Byte) : Nibble := t.extractLsb' 4 4

/-- MASK_OF (00_scope.md R7). -/
def maskOf (p : Params) (deviceType : Nat) : Byte :=
  (p.maskTable.byType.lookup deviceType).getD p.maskTable.otherwise

/-- A stored CustomMap code (30_encoding.md R52): a bit index 0..15, the sentinel, or neither. -/
def mapEntryOfCode (p : Params) (code : Byte) : Option MapEntry :=
  if code.toNat < 16 then some (some (code.extractLsb' 0 4))
  else if code = p.sentinelCode then some none
  else none

/-- A stored ButtonMap code (10_state.md R18, D47): a profile id 0..6, CUSTOM_CODE, or neither. -/
def buttonMapOfCode (p : Params) (code : Byte) : Option ButtonMap :=
  if h : code.toNat < 7 then some (.profile ⟨code.toNat, h⟩)
  else if code = p.customCode then some .custom
  else none

/-! ### Construction (R107) -/

def evCodesOk (p : Params) : Bool := p.evPos != 0 && p.evNeg != 0 && p.evPos != p.evNeg

def entryOk (p : Params) (t : Byte) : Bool :=
  decide ((nextField t).toNat ≤ 5) &&
    (eventField t == 0 || eventField t == p.evPos || eventField t == p.evNeg)

/-- The indexes of QTABLE, row by row. -/
def qtableIndexes : List (Nat × Nat) :=
  (List.range 6).flatMap fun r => (List.range 4).map fun c => (r, c)

/-- The first ill-formed entry of QTABLE, row by row. -/
def badEntry (p : Params) : Option (Nat × Nat) :=
  qtableIndexes.find? fun ix => !((qentry p ix.1 ix.2).any (entryOk p))

/-- The four fallback bits are distinct (42_composer.md R81); that each is in 0..15 is their type. -/
def fallbackOk (p : Params) : Bool :=
  decide [p.fbPos.e0, p.fbNeg.e0, p.fbPos.e1, p.fbNeg.e1].Nodup

/-- Exactly two built-in profiles force bits (R81). -/
def forceOk (p : Params) : Bool := p.profileForce.toList.countP (· != 0) == 2

/-- The construction check: where the first broken constraint is, if one is. DEDUCED (log 13): the event codes are
tested before the table that uses them, as vector V-F11 of 95_test_vectors.md needs. -/
def firstIllformed (p : Params) : Option TableSite :=
  if !evCodesOk p then some .evCodes
  else match badEntry p with
    | some ix => some (.qtable ix.1 ix.2)
    | none =>
      if !fallbackOk p then some .fallbackBits
      else if !forceOk p then some .profileForce
      else if p.sentinelCode.toNat < 16 then some .sentinelCode
      else if p.customCode.toNat < 7 then some .customCode
      else if p.bootRate = 0b11 then some .bootRate
      else none

/-! ### Configuration (R106) -/

/-- The configuration check: the first failing field in the order R106 lists them, if one fails. Nothing is clamped. -/
def firstBadField (I : Inst) : Option CfgField :=
  if !(decide (1 ≤ I.cfg.rotaryPPR) && decide (I.cfg.rotaryPPR ≤ 256)) then some .rotaryPPR
  else if !decide (I.cfg.rotaryHold ≤ 255) then some .rotaryHold
  else if (buttonMapOfCode I.par I.cfg.buttonMap).isNone then some .buttonMap
  else if I.cfg.customMap.toList.any (fun c => (mapEntryOfCode I.par c).isNone) then some .customMap
  else if !decide (I.cfg.rotaryInvert ≤ 3) then some .rotaryInvert
  else if I.cfg.deviceComm != .usbOnly && I.cfg.deviceComm != .usbPs2 then some .deviceComm
  else if maskOf I.par I.cfg.deviceType != 0x00 && maskOf I.par I.cfg.deviceType != 0xFF then some .deviceType
  else none

/-- The fault a reset raises, if any: construction is checked before configuration (70_reset_and_hazards.md R119),
and the first fault wins (R105). -/
def resetCause (I : Inst) : Option FaultCause :=
  match firstIllformed I.par with
  | some site => some (.tableIllformed site)
  | none => (firstBadField I).map .badConfig

end Sys2Proof.Machine
end

