-- ==== Sys2Proof/Machine/State.lean ====
section
/-! DEFINITION. The machine's state as plain data (10_state.md R20 to R28), the reasons a step can stop, and the
state right after reset (R29, 70_reset_and_hazards.md R119). -/

namespace Sys2Proof.Machine

/-- Why a step can stop. -/
inductive Fault where
  /-- Raised by `step` in a state whose fault register is not NONE: no agent has a step (60_exceptions.md R105).
  Safe: the spec gives such a state no step at all. -/
  | stuck (code : FaultCode)
  deriving DecidableEq, Repr

/-- Why an instruction has no meaning. -/
inductive Refusal where
  /-- Raised by an arm of `exec` whose instruction has no meaning yet; no arm raises it. Safe: the model stops. -/
  | notModelled (mnemonic : String)
  deriving DecidableEq, Repr

/-- One encoder slot (10_state.md R21). `pinpair` is `none` for ⊥. -/
structure EncSlot where
  attached : Bool
  pinpair : Option Byte
  fsm : Nibble
  pos : Byte
  dir : Dir
  hold : Byte
  inv : Bool
  deriving DecidableEq, Repr

/-- The mode of the twelve shared pins (R23). -/
inductive PinMode where
  | unconfigured
  | inputPullup
  | output
  deriving DecidableEq, Repr

/-- The phases of the MAIN sequencer (R24). -/
inductive MPhase where
  | bootQd
  | bootAtt0
  | bootAtt1
  | bootBtn
  | bootPs2
  | read
  | dir0
  | dir1
  | publish
  | restore
  deriving DecidableEq, Repr

/-- The events of the output trace (R28). A fault event carries what R104 records with the code (log 12). -/
inductive Event where
  | ack
  | active
  | xchg (mosi miso : Byte)
  | fault (cause : FaultCause)
  deriving DecidableEq, Repr

/-- What an operation returned to its caller (30_encoding.md R61). -/
inductive OpResult where
  | none
  | byte (b : Byte)
  | frame (f : Frame)
  deriving DecidableEq, Repr

/-- The state. Every field down to `trace` is the spec's; `none` stands for the spec's ⊥ (00_scope.md R9, log 3)
and, in `fault`, for NONE. `inst` is the model instance, constant for a run (R17, R18, log 1). The last four fields
are the model's own (logs 8, 5, 4, 17): `mainDue` is how many free steps may still pass before MAIN's, `none` where that
number is not drawn yet. -/
structure State where
  inst : Inst
  tmrEn : Bool
  tmrRate : Option TickRate
  enc : PerEnc EncSlot
  pinmode : PinMode
  frame : Option Frame
  d : PerEnc (Option Dir)
  mphase : MPhase
  outw : Option OutWord
  ps2En : Bool
  mask : Option Byte
  ps2Step : Fin 6
  tx : Option Byte
  fault : Option FaultCode
  trace : List Event
  result : OpResult
  pending : List Request
  draws : Nat
  mainDue : Option Nat
  deriving DecidableEq, Repr

/-- An encoder slot after reset (R29). -/
def EncSlot.reset : EncSlot where
  attached := false
  pinpair := none
  fsm := 0
  pos := 0
  dir := .zero
  hold := 0
  inv := false

/-- The state after reset of the model instance `I` (R29, R119): every element at its reset value, and the fault of
a failed reset check raised as R105 says. -/
def State.resetOf (I : Inst) : State where
  inst := I
  tmrEn := false
  tmrRate := none
  enc := ⟨EncSlot.reset, EncSlot.reset⟩
  pinmode := .unconfigured
  frame := none
  d := ⟨none, none⟩
  mphase := .bootQd
  outw := none
  ps2En := false
  mask := none
  ps2Step := 0
  tx := none
  fault := (resetCause I).map FaultCause.code
  trace := (resetCause I).toList.map Event.fault
  result := .none
  pending := []
  draws := 0
  mainDue := none

/-- The machine right after reset. DESIGN CHOICE (log 2): the instance is the spec's example set EXP; the spec leaves
the instance open, and `State.resetOf` is reset for every instance. -/
def State.reset : State := State.resetOf exampleInst

end Sys2Proof.Machine
end

