-- ==== Sys2Proof/Machine/Ops.lean ====
section
/-! DEFINITION. The named operations over the registers, raising a fault (60_exceptions.md R105), events and draws.
The block has no memory (20_memory.md R30): these updates are its only accesses. -/

namespace Sys2Proof.Machine

/-- `emit E` (00_scope.md R9): the event joins the end of the trace. -/
def emit (e : Event) (s : State) : State := { s with trace := s.trace ++ [e] }

/-- The operation's result for its caller (30_encoding.md R61); it is not in the trace (10_state.md R28). -/
def returning (r : OpResult) (s : State) : State := { s with result := r }

/-- `raise Fault(code)(info)` (60_exceptions.md R105): the code is recorded unless an earlier one stands, the event is
emitted, and the operation ends with no other change; it returns no result (log 8). There is no handler and no return:
the block is stuck from then on (R112). -/
def raise (c : FaultCause) (s : State) : State :=
  { s with
    fault := match s.fault with
      | none => some c.code
      | some first => some first
    trace := s.trace ++ [.fault c]
    result := .none }

def setTimer (r : TickRate) (s : State) : State := { s with tmrRate := some r, tmrEn := true }

def setSlot (i : EncId) (x : EncSlot) (s : State) : State := { s with enc := s.enc.set i x }

def setPinmode (m : PinMode) (s : State) : State := { s with pinmode := m }

def setFrame (f : Frame) (s : State) : State := { s with frame := some f }

def setLatch (i : EncId) (v : Dir) (s : State) : State := { s with d := s.d.set i (some v) }

/-- The single 16-bit write of the outgoing word (20_memory.md R39). -/
def setOutw (w : OutWord) (s : State) : State := { s with outw := some w }

/-- What PS2_INIT writes (43_ps2.md R87): mask, enable and step, and not `tx`. -/
def setSession (m : Byte) (en : Bool) (s : State) : State :=
  { s with mask := some m, ps2Step := 0, ps2En := en }

/-- `S.tx <- v`, `none` for ⊥ (R93). -/
def setTx (v : Option Byte) (s : State) : State := { s with tx := v }

def setPs2Step (k : Fin 6) (s : State) : State := { s with ps2Step := k }

def setPhase (p : MPhase) (s : State) : State := { s with mphase := p }

def setPending (l : List Request) (s : State) : State := { s with pending := l }

def setMainDue (k : Option Nat) (s : State) : State := { s with mainDue := k }

/-- One free value has been drawn (log 4). -/
def countDraw (s : State) : State := { s with draws := s.draws + 1 }

/-- `draw(8 bits)` (00_scope.md R9): the byte drawn now. Every draw is followed by `countDraw`. -/
def drawnByte (s : State) : Byte := Config.freeByte s.draws

/-- A read of a byte that may be ⊥ where the rule says "draw" (R9): the byte and the state after the read. -/
def byteOrDraw (v : Option Byte) (s : State) : Byte × State :=
  match v with
  | some b => (b, s)
  | none => (drawnByte s, countDraw s)

end Sys2Proof.Machine
end

