-- ==== Sys2Proof/Machine/Operands.lean ====
section
/-! DEFINITION. Every operand form: encoder ids and their checks (40_quadrature.md R64), samples (30_encoding.md R47),
rate codes (R56), raw button levels (41_buttons.md R76), directions (R10, R50) and the configuration reads of R18, R19. -/

namespace Sys2Proof.Machine

/-! ### Encoder ids -/

/-- The slot an 8-bit encoder id names, if any (R64). -/
def encId? (e : Byte) : Option EncId :=
  if e = 0 then some 0 else if e = 1 then some 1 else none

/-- `check_id` (R64), then the rest of the operation on the slot. -/
def checkId (e : Byte) (s : State) (k : EncId → State) : State :=
  match encId? e with
  | some i => k i
  | none => raise (.badEncoderId e) s

/-- `check_attached` (R64): the id first, then the attach bit, then the rest of the operation. -/
def checkAttached (e : Byte) (s : State) (k : EncId → State) : State :=
  checkId e s fun i => if (s.enc.get i).attached then k i else raise (.notAttached e) s

/-! ### Operand codes -/

/-- The rate of a 2-bit code; 0b11 is reserved (30_encoding.md R56). -/
def rateOfCode (code : BitVec 2) : Option TickRate :=
  if code = 0b00 then some .khz1
  else if code = 0b01 then some .khz2
  else if code = 0b10 then some .khz4
  else none

/-- An encoder pin sample `{B, A}`, levels taken raw (R47). -/
def sampleOf (pins : EncoderPins) : Sample := BitVec.ofBool pins.b ++ BitVec.ofBool pins.a

/-- The raw level vector of the twelve buttons from the two ports (41_buttons.md R76). -/
def rawLevels (n : PortNibble) (port1 port2 : Byte) : Frame :=
  match n with
  | .low => port2.extractLsb' 0 4 ++ port1
  | .high => port2.extractLsb' 4 4 ++ port1

/-! ### Directions -/

/-- Integer negation of a direction (00_scope.md R10). -/
def dirNeg : Dir → Dir
  | .neg => .pos
  | .zero => .zero
  | .pos => .neg

def dirInt : Dir → Int
  | .neg => -1
  | .zero => 0
  | .pos => 1

/-- A direction as a result byte: 0xFF, 0x00 or 0x01 (30_encoding.md R50). -/
def dirByte : Dir → Byte
  | .neg => 0xFF
  | .zero => 0x00
  | .pos => 0x01

/-! ### Configuration reads -/

/-- The invert flag of encoder `i`: bit `i` of `CFG.RotaryInvert` (10_state.md R18, conflict C3). -/
def invertFlag (I : Inst) (i : EncId) : Bool := I.cfg.rotaryInvert.testBit i.val

/-- `CFG.ButtonMap`; the free value is for a code the reset check rejects (log 10). -/
def buttonMapOf (I : Inst) : ButtonMap :=
  (buttonMapOfCode I.par I.cfg.buttonMap).getD (Config.illegalButtonMap I.cfg.buttonMap)

/-- `CFG.CustomMap`; the free value is for a code the reset check rejects (log 10). -/
def customMapping (I : Inst) : Mapping :=
  ⟨(I.cfg.customMap.toList.map fun c => (mapEntryOfCode I.par c).getD (Config.illegalMapEntry c)).toArray, by simp⟩

/-- The active mapping MAP (10_state.md R19). -/
def activeMap (I : Inst) : Mapping :=
  match buttonMapOf I with
  | .profile k => I.par.profileMap[k]
  | .custom => customMapping I

/-- The forced bits FORCE (R19): none for a custom mapping. -/
def activeForce (I : Inst) : OutWord :=
  match buttonMapOf I with
  | .profile k => I.par.profileForce[k]
  | .custom => 0

end Sys2Proof.Machine
end

