-- ==== Sys2Proof/Machine/Buttons.lean ====
section
/-! DEFINITION. The SharedIOButtonReader operations (41_buttons.md). -/

namespace Sys2Proof.Machine

/-- BTN_INIT (R77). -/
def btnInit (s : State) : State := returning .none (setPinmode .inputPullup s)

/-- BTN_READ (R78): the pins become inputs, the levels are inverted into the frame, the frame is kept and returned.
The settle delay between the switch and the sample is timing only (R124). -/
def btnRead (lv : Frame) (s : State) : State :=
  returning (.frame (~~~lv)) (setFrame (~~~lv) (setPinmode .inputPullup s))

/-- PINS_OUTPUT (R79). -/
def pinsOutput (s : State) : State := returning .none (setPinmode .output s)

/-- The meaning of BTN_INIT (R77). -/
def execBtnInit (s : State) : Host.Outcome State Fault Refusal := .next (btnInit s)

/-- The meaning of BTN_READ (R78). -/
def execBtnRead (lv : Frame) (s : State) : Host.Outcome State Fault Refusal := .next (btnRead lv s)

/-- The meaning of PINS_OUTPUT (R79). -/
def execPinsOutput (s : State) : Host.Outcome State Fault Refusal := .next (pinsOutput s)

end Sys2Proof.Machine
end

