-- ==== Sys2Proof/Machine/Quadrature.lean ====
section
/-! DEFINITION. The QuadratureDecoder operations (40_quadrature.md). -/

namespace Sys2Proof.Machine

/-! ### One slot -/

/-- A slot as QD_ATTACH creates it (R66). -/
def attachedSlot (I : Inst) (i : EncId) (pinpair : Byte) : EncSlot where
  attached := true
  pinpair := some pinpair
  fsm := 0
  pos := 0
  dir := .zero
  hold := 0
  inv := invertFlag I i

/-- `QTABLE[fsm][s]` (R67); rows above 5 do not exist and are never reached (10_state.md R22, log 10). -/
def stateByte (p : Params) (fsm : Nibble) (s : Sample) : Byte :=
  (qentry p fsm.toNat s.toNat).getD (Config.absentTableRow fsm s)

/-- `(P + pos + δ) mod P` in integers (R68); a PPR outside 1..256 is rejected at reset (log 10). -/
def positionAfter (ppr : Nat) (pos : Byte) (δ : Dir) : Byte :=
  if 1 ≤ ppr ∧ ppr ≤ 256 then BitVec.ofInt 8 (((ppr : Int) + pos.toNat + dirInt δ) % (ppr : Int))
  else Config.posOfIllegalPpr ppr pos δ

/-- The hold countdown a detent loads (R68); a value above 255 is rejected at reset (log 10). -/
def holdLoad (rotaryHold : Nat) : Byte :=
  if rotaryHold ≤ 255 then BitVec.ofNat 8 rotaryHold else Config.holdOfIllegal rotaryHold

/-- A detent event in direction `δ` (R68). -/
def detent (I : Inst) (δ : Dir) (x : EncSlot) : EncSlot :=
  { x with
    pos := positionAfter I.cfg.rotaryPPR x.pos δ
    dir := δ
    hold := holdLoad I.cfg.rotaryHold }

/-- A tick with no event (R69): decrement the hold unless it is 0, then clear the direction if it is 0. -/
def noEvent (x : EncSlot) : EncSlot :=
  let hold := if x.hold = 0 then 0 else x.hold - 1
  { x with
    hold := hold
    dir := if hold = 0 then .zero else x.dir }

/-- One tick of a slot with sample `smp` (R67): the low nibble of the state byte is stored, the event nibble consumed. -/
def tickSlot (I : Inst) (smp : Sample) (x : EncSlot) : EncSlot :=
  let t := stateByte I.par x.fsm smp
  let y := { x with fsm := nextField t }
  if eventField t = I.par.evPos then detent I .pos y
  else if eventField t = I.par.evNeg then detent I .neg y
  else noEvent y

/-- The direction as a consumer sees it, through the inversion flag (R71). -/
def visibleDir (x : EncSlot) : Dir := if x.inv then dirNeg x.dir else x.dir

/-- The position as a consumer sees it: the 8-bit complement if inverted (R72). -/
def visiblePos (x : EncSlot) : Byte := if x.inv then ~~~x.pos else x.pos

/-! ### The operations -/

/-- QD_INIT (R65). -/
def qdInit (rate : BitVec 2) (s : State) : State :=
  match rateOfCode rate with
  | some r => returning .none (setTimer r s)
  | none => raise (.badRate rate) s

/-- QD_ATTACH (R66). -/
def qdAttach (e pinpair : Byte) (s : State) : State :=
  checkId e s fun i => returning .none (setSlot i (attachedSlot s.inst i pinpair) s)

/-- QD_TICK (R67). -/
def qdTick (e : Byte) (smp : Sample) (s : State) : State :=
  checkAttached e s fun i => returning .none (setSlot i (tickSlot s.inst smp (s.enc.get i)) s)

/-- One half of TIMER_IRQ: the slot is ticked if it is attached and skipped if not (R70). -/
def tickIfAttached (e : Byte) (i : EncId) (smp : Sample) (s : State) : State :=
  if (s.enc.get i).attached then qdTick e smp s else s

/-- TIMER_IRQ (R70): no effect while the timer is off, else slot 0 and then slot 1. -/
def timerIrq (s1 s0 : Sample) (s : State) : State :=
  returning .none (if s.tmrEn then tickIfAttached 1 1 s1 (tickIfAttached 0 0 s0 s) else s)

/-- QD_GETDIR (R71). -/
def qdGetdir (e : Byte) (s : State) : State :=
  checkAttached e s fun i => returning (.byte (dirByte (visibleDir (s.enc.get i)))) s

/-- QD_GETPOS (R72). -/
def qdGetpos (e : Byte) (s : State) : State :=
  checkAttached e s fun i => returning (.byte (visiblePos (s.enc.get i))) s

/-! ### The meanings -/

/-- The meaning of QD_INIT (R65). -/
def execQdInit (rate : BitVec 2) (s : State) : Host.Outcome State Fault Refusal := .next (qdInit rate s)

/-- The meaning of QD_ATTACH (R66). -/
def execQdAttach (e pinpair : Byte) (s : State) : Host.Outcome State Fault Refusal := .next (qdAttach e pinpair s)

/-- The meaning of QD_TICK (R67). -/
def execQdTick (e : Byte) (smp : Sample) (s : State) : Host.Outcome State Fault Refusal := .next (qdTick e smp s)

/-- The meaning of TIMER_IRQ (R70). -/
def execTimerIrq (s1 s0 : Sample) (s : State) : Host.Outcome State Fault Refusal := .next (timerIrq s1 s0 s)

/-- The meaning of QD_GETDIR (R71). -/
def execQdGetdir (e : Byte) (s : State) : Host.Outcome State Fault Refusal := .next (qdGetdir e s)

/-- The meaning of QD_GETPOS (R72). -/
def execQdGetpos (e : Byte) (s : State) : Host.Outcome State Fault Refusal := .next (qdGetpos e s)

end Sys2Proof.Machine
end

