-- ==== Sys2Proof/Machine/Composer.lean ====
section
/-! DEFINITION. The InputComposer: the Compose function (42_composer.md R80) and its two operations. -/

namespace Sys2Proof.Machine

/-- `1 << k` in the 16-bit word. -/
def wordBit (k : BitVec 4) : OutWord := 1#16 <<< k.toNat

/-- What a map entry contributes; UNMAPPED contributes nothing (R80). -/
def entryBits : Option MapEntry → OutWord
  | some (some k) => wordBit k
  | some none => 0
  | none => 0

/-- The bits of the first `n` buttons: each pressed and mapped button sets its bit, by OR (R80). -/
def buttonBits (frame : Frame) (map : Mapping) : Nat → OutWord
  | 0 => 0
  | n + 1 => buttonBits frame map n ||| if frame.getLsbD n then entryBits map[n]? else 0

/-- The digital fallback bit of one encoder: FB_POS for +1, FB_NEG for -1, none for 0 (R80). -/
def fallbackBits (p : Params) (i : EncId) (d : Dir) : OutWord :=
  match d with
  | .pos => wordBit (p.fbPos.get i)
  | .neg => wordBit (p.fbNeg.get i)
  | .zero => 0

/-- `Compose` (R80): buttons, fallback bits, forced bits, then the complement of the whole word. -/
def compose (p : Params) (frame : Frame) (d0 d1 : Dir) (map : Mapping) (force : OutWord) : OutWord :=
  ~~~(buttonBits frame map 12 ||| fallbackBits p 0 d0 ||| fallbackBits p 1 d1 ||| force)

/-- CMP_LATCHDIR (R82): the direction QD_GETDIR returns, with QD_GETDIR's checks. -/
def cmpLatchdir (e : Byte) (s : State) : State :=
  checkAttached e s fun i => returning .none (setLatch i (visibleDir (s.enc.get i)) s)

/-- CMP_PUBLISH (R83). DEDUCED (log 14): of several ⊥ latches the fault names the first in the order of the rule's test. -/
def cmpPublish (s : State) : State :=
  match s.frame, s.d.e0, s.d.e1 with
  | some f, some d0, some d1 =>
    returning .none (setOutw (compose s.inst.par f d0 d1 (activeMap s.inst) (activeForce s.inst)) s)
  | none, _, _ => raise (.unwritten .frame) s
  | some _, none, _ => raise (.unwritten .d0) s
  | some _, some _, none => raise (.unwritten .d1) s

/-- The meaning of CMP_LATCHDIR (R82). -/
def execCmpLatchdir (e : Byte) (s : State) : Host.Outcome State Fault Refusal := .next (cmpLatchdir e s)

/-- The meaning of CMP_PUBLISH (R83). -/
def execCmpPublish (s : State) : Host.Outcome State Fault Refusal := .next (cmpPublish s)

end Sys2Proof.Machine
end

