-- ==== Sys2Proof/Machine/Ps2.lean ====
section
/-! DEFINITION. The PS2ProtocolEmulator: the byte-received handler (43_ps2.md R89 to R100), its operations and the
five wire-byte classes (30_encoding.md R54). -/

namespace Sys2Proof.Machine

/-- The filler FILLER, before masking (00_scope.md R6). -/
def fillerByte : Byte := 0xFF

/-- `S.tx <- v ^ S.mask` (43_ps2.md R100). A mask that is ⊥ is never read in a run (U17); reading it draws (log 9). -/
def loadReply (v : Byte) (s : State) : State :=
  let (m, t) := byteOrDraw s.mask s
  setTx (some (v ^^^ m)) t

/-- A reply followed by the acknowledge pulse (R99: the pulse comes after the load). -/
def replyAck (v : Byte) (s : State) : State := emit .ack (loadReply v s)

/-- Bits 7:0 and 15:8 of the outgoing word (20_memory.md R33), ⊥ while it is ⊥. -/
def outLow (s : State) : Option Byte := s.outw.map (·.extractLsb' 0 8)
def outHigh (s : State) : Option Byte := s.outw.map (·.extractLsb' 8 8)

/-- Step 0 (R92). -/
def step0 (s : State) : State := replyAck s.inst.par.id1 s

/-- Step 1 (R93): a mismatch leaves no defined reply and sends no acknowledge. -/
def step1 (b : Byte) (s : State) : State :=
  if b = cmdByte then replyAck s.inst.par.id2 s else setTx none s

/-- Step 2 (R94). -/
def step2 (s : State) : State :=
  let (lo, t) := byteOrDraw (outLow s) s
  replyAck lo t

/-- Step 3 (R95): the word is read again, not latched at step 2. -/
def step3 (s : State) : State :=
  let (hi, t) := byteOrDraw (outHigh s) s
  replyAck hi t

/-- Step 4 (R96): the filler, acknowledged for the last time. -/
def step4 (s : State) : State := replyAck fillerByte s

/-- Step 5, the region ≥ 5 (R97): the filler without acknowledge. -/
def stepIdle (s : State) : State := loadReply fillerByte s

/-- The step case of R89. -/
def replyAt (k : Fin 6) (b : Byte) (s : State) : State :=
  match k with
  | 0 => step0 s
  | 1 => step1 b s
  | 2 => step2 s
  | 3 => step3 s
  | 4 => step4 s
  | 5 => stepIdle s

/-- `min(step + 1, 5)` (R98). -/
def stepSucc (k : Fin 6) : Fin 6 := ⟨min (k.val + 1) 5, by omega⟩

/-- The step whose case handles byte `b`: 0 for a header, the current step otherwise (R91). -/
def handlingStep (k : Fin 6) (b : Byte) : Fin 6 := if b = pollHeaderByte then 0 else k

/-- The byte-received handler (R89): nothing while disabled, else ACTIVE (R90), the header's reset of the step (R91),
the step case, and the advance of the step (R98). -/
def ps2Handler (b : Byte) (s : State) : State :=
  if s.ps2En then
    let k := handlingStep s.ps2Step b
    setPs2Step (stepSucc k) (replyAt k b (setPs2Step k (emit .active s)))
  else s

/-- PS2_INIT (R87): `tx` is not written. -/
def ps2Init (s : State) : State :=
  returning .none (setSession (maskOf s.inst.par s.inst.cfg.deviceType) (s.inst.cfg.deviceComm == .usbPs2) s)

/-- PS2_RX (R89). -/
def ps2Rx (b : Byte) (s : State) : State := returning .none (ps2Handler b s)

/-- PS2_XCHG (R88): while disabled any byte is shifted out and nothing changes; else the reply loaded before is shifted
out (any byte if it is ⊥), the exchange is recorded and the handler runs. -/
def ps2Xchg (b : Byte) (s : State) : State :=
  if s.ps2En then
    let (miso, t) := byteOrDraw s.tx s
    returning (.byte miso) (ps2Handler b (emit (.xchg b miso) t))
  else returning (.byte (drawnByte s)) (countDraw s)

/-- The meaning of PS2_INIT (R87). -/
def execPs2Init (s : State) : Host.Outcome State Fault Refusal := .next (ps2Init s)

/-- The meaning of PS2_RX (R89). -/
def execPs2Rx (b : Byte) (s : State) : Host.Outcome State Fault Refusal := .next (ps2Rx b s)

/-- The meaning of PS2_XCHG (R88). -/
def execPs2Xchg (b : Byte) (s : State) : Host.Outcome State Fault Refusal := .next (ps2Xchg b s)

/-! ### The wire-byte classes: the reception of one byte of the class (30_encoding.md R54, log 7) -/

/-- The meaning of POLL_HEADER (R54, R91): the byte 0x01 at any step. -/
def execPollHeader (s : State) : Host.Outcome State Fault Refusal := .next (ps2Rx pollHeaderByte s)

/-- The meaning of CMD_MATCH (R54, R93): the byte 0x42, of this class at step 1. -/
def execCmdMatch (s : State) : Host.Outcome State Fault Refusal := .next (ps2Rx cmdByte s)

/-- The meaning of CMD_MISMATCH (R54, R93): another byte, of this class at step 1. -/
def execCmdMismatch (b : Byte) (s : State) : Host.Outcome State Fault Refusal := .next (ps2Rx b s)

/-- The meaning of DATA (R54, R92, R94, R95, R96): a byte of this class at steps 0, 2, 3 and 4. -/
def execData (b : Byte) (s : State) : Host.Outcome State Fault Refusal := .next (ps2Rx b s)

/-- The meaning of IDLE (R54, R97): a byte of this class at step 5. -/
def execIdle (b : Byte) (s : State) : Host.Outcome State Fault Refusal := .next (ps2Rx b s)

end Sys2Proof.Machine
end

