-- ==== Sys2Proof/Machine/Dispatch.lean ====
section
/-! DEFINITION. One arm per constructor of Instr. -/

namespace Sys2Proof.Machine

def exec (i : Instr) (s : State) : Host.Outcome State Fault Refusal :=
  match i with
  | .qdInit rate => Sys2Proof.Machine.execQdInit rate s
  | .qdAttach e p => Sys2Proof.Machine.execQdAttach e p s
  | .qdTick e smp => Sys2Proof.Machine.execQdTick e smp s
  | .timerIrq s1 s0 => Sys2Proof.Machine.execTimerIrq s1 s0 s
  | .qdGetdir e => Sys2Proof.Machine.execQdGetdir e s
  | .qdGetpos e => Sys2Proof.Machine.execQdGetpos e s
  | .btnInit => Sys2Proof.Machine.execBtnInit s
  | .btnRead lv => Sys2Proof.Machine.execBtnRead lv s
  | .pinsOutput => Sys2Proof.Machine.execPinsOutput s
  | .cmpLatchdir e => Sys2Proof.Machine.execCmpLatchdir e s
  | .cmpPublish => Sys2Proof.Machine.execCmpPublish s
  | .ps2Init => Sys2Proof.Machine.execPs2Init s
  | .ps2Rx b => Sys2Proof.Machine.execPs2Rx b s
  | .ps2Xchg b => Sys2Proof.Machine.execPs2Xchg b s
  | .pollHeader => Sys2Proof.Machine.execPollHeader s
  | .cmdMatch => Sys2Proof.Machine.execCmdMatch s
  | .cmdMismatch b => Sys2Proof.Machine.execCmdMismatch b s
  | .data b => Sys2Proof.Machine.execData b s
  | .idle b => Sys2Proof.Machine.execIdle b s

end Sys2Proof.Machine
end

