-- ==== Sys2Proof/Machine/Sequencer.lean ====
section
/-! DEFINITION. The agents as issuers of operations: the MAIN sequencer's phases (42_composer.md R84), the operation of
each agent step (00_scope.md R5), and how a request selects the instruction it runs. -/

namespace Sys2Proof.Machine

/-- The phase after a phase (R84). -/
def nextPhase : MPhase → MPhase
  | .bootQd => .bootAtt0
  | .bootAtt0 => .bootAtt1
  | .bootAtt1 => .bootBtn
  | .bootBtn => .bootPs2
  | .bootPs2 => .read
  | .read => .dir0
  | .dir0 => .dir1
  | .dir1 => .publish
  | .publish => .restore
  | .restore => .read

/-- The operation of a phase (R84); the READ phase draws the levels of the two ports (R76, log 6). -/
def phaseInstr (p : Params) (port1 port2 : Byte) : MPhase → Instr
  | .bootQd => .qdInit p.bootRate
  | .bootAtt0 => .qdAttach 0 p.pinpair.e0
  | .bootAtt1 => .qdAttach 1 p.pinpair.e1
  | .bootBtn => .btnInit
  | .bootPs2 => .ps2Init
  | .read => .btnRead (rawLevels p.portbNibble port1 port2)
  | .dir0 => .cmpLatchdir 0
  | .dir1 => .cmpLatchdir 1
  | .publish => .cmpPublish
  | .restore => .pinsOutput

/-- The operation an agent step issues (00_scope.md R5, 30_encoding.md R59). -/
def agentInstr (s : State) : AgentStep → Instr
  | .main port1 port2 => phaseInstr s.inst.par port1 port2 s.mphase
  | .timer pins1 pins0 => .timerIrq (sampleOf pins1) (sampleOf pins0)
  | .bus mosi => .ps2Xchg mosi
  | .getDir e => .qdGetdir e
  | .getPos e => .qdGetpos e
  | .lightsOutput => .pinsOutput

/-- After MAIN's operation the phase advances, but not after a fault (R84). -/
def advancePhase (s : State) : State :=
  match s.fault with
  | none => setPhase (nextPhase s.mphase) s
  | some _ => s

/-- What an agent step does beside its operation: MAIN advances its phase, the others do nothing more. -/
def afterAgent (a : AgentStep) (s : State) : State :=
  match a with
  | .main _ _ => advancePhase s
  | .timer _ _ => s
  | .bus _ => s
  | .getDir _ => s
  | .getPos _ => s
  | .lightsOutput => s

/-- The free choice of the next agent step, and how long MAIN may then still wait. MAIN is always enabled (20_memory.md
R43) and weakly fair (70_reset_and_hazards.md R132): once the drawn number of steps has passed, MAIN steps, and the next
number is open. TIMER and BUS are owed nothing (log 17). -/
def freeChoice (s : State) : AgentStep × Option Nat :=
  match s.mainDue.getD (Config.freeWait s.draws) with
  | 0 => (.main (Config.freePorts s.draws).1 (Config.freePorts s.draws).2, none)
  | k + 1 => (Config.freeStep s.draws, some k)

/-- The state once the free choice is made. -/
def takeChoice (s : State) : State := setMainDue (freeChoice s).2 (countDraw s)

/-- The request a table row of `nbits` bits `w` stands for: a received byte, or an operation word. -/
def tableRequest (nbits w : Nat) : Request :=
  if nbits ≤ 8 then .wire (BitVec.ofNat 8 w) else .word (BitVec.ofNat 32 w)

/-- A PS/2 step at which the wire class that the byte's bits select is the class of the byte (R54, log 7): 1 for the
command byte; for another data byte the current step, or 0 if the current one makes it another class. -/
def selectingStep (b : Byte) (k : Fin 6) : Fin 6 :=
  if b = pollHeaderByte then k
  else if b = cmdByte then 1
  else if k = 1 ∨ k = 5 then 0
  else k

/-- `s` with the instruction of a table row as its next request, and the step that selects its class if it is a byte. -/
def fetchNext (s : State) (nbits w : Nat) : State :=
  let t := setPending (tableRequest nbits w :: s.pending) s
  if nbits ≤ 8 then setPs2Step (selectingStep (BitVec.ofNat 8 w) s.ps2Step) t else t

end Sys2Proof.Machine
end

