-- ==== Sys2Proof/Machine/Step.lean ====
section
/-! DEFINITION. One step of the block: a pending request, or an agent step chosen freely (20_memory.md R42, R43). -/

namespace Sys2Proof.Machine

/-- A next state followed by `f`; a stop stays as it is. -/
def andThen (o : Host.Outcome State Fault Refusal) (f : State → State) : Host.Outcome State Fault Refusal :=
  match o with
  | .next t => .next (f t)
  | .fault r => .fault r
  | .refused r => .refused r

/-- One agent step (R37): its operation, then what the agent does beside it. A TIMER step while `S.tmr_en = 0` has no
effect, so it stands for no step of any agent (40_quadrature.md R70, log 5). -/
def runAgent (a : AgentStep) (s : State) : Host.Outcome State Fault Refusal :=
  andThen (exec (agentInstr s a) s) (afterAgent a)

/-- One request: an operation word is decoded and run, an illegal one raises ILLEGAL_OP (30_encoding.md R60); a wire byte
is classified by the current step and run (R54); an agent takes its step. -/
def runRequest (r : Request) (s : State) : Host.Outcome State Fault Refusal :=
  match r with
  | .word w =>
    match decode w with
    | .ok i => exec i s
    | .error _ => .next (raise (.illegalOp w) s)
  | .wire b => exec (classify s.ps2Step b) s
  | .agent a => runAgent a s

/-- One step. With the fault register set no agent has a step (60_exceptions.md R105). Otherwise the oldest pending
request runs; with none pending any agent may step, with any draws (R43, log 5), MAIN after a finite wait
(70_reset_and_hazards.md R132, log 17). -/
def step (s : State) : Host.Outcome State Fault Refusal :=
  match s.fault with
  | some code => .fault (.stuck code)
  | none =>
    match s.pending with
    | r :: rest => runRequest r (setPending rest s)
    | [] => runAgent (freeChoice s).1 (takeChoice s)

/-- `s` with the instruction of a row of spec/opcode_table.json placed so that the very next step runs it (log 5). -/
def State.withFetchWord (s : State) (nbits w : Nat) : State := fetchNext s nbits w

end Sys2Proof.Machine
end

