-- ==== Sys2Proof/Machine/Flags.lean ====
section
/-! DEFINITION. The block has no condition codes and no flags: no operation computes one (10_state.md R15).
Its status registers are the fault register, the two enables and the two attach bits; they are read here as one record. -/

namespace Sys2Proof.Machine

/-- The status registers of R15. -/
structure Status where
  fault : Option FaultCode
  tmrEn : Bool
  ps2En : Bool
  attached : PerEnc Bool
  deriving DecidableEq, Repr

def State.status (s : State) : Status :=
  ⟨s.fault, s.tmrEn, s.ps2En, ⟨s.enc.e0.attached, s.enc.e1.attached⟩⟩

end Sys2Proof.Machine
end

