-- ==== Sys2Proof/Safety.lean ====
section
/-! DEFINITION. The terms claims are stated in: the reset checks as the spec words them, the invariant of the block,
runs of operations and of steps, and which steps are MAIN's. -/

namespace Sys2Proof.Machine

/-! ### A legal instance -/

/-- `tables_ok` of 60_exceptions.md R107, with the constraints of 42_composer.md R81 it refers to. -/
def TablesOk (p : Params) : Prop :=
  (∀ r c t, qentry p r c = some t →
    (nextField t).toNat ≤ 5 ∧ (eventField t = 0 ∨ eventField t = p.evPos ∨ eventField t = p.evNeg)) ∧
  p.evPos ≠ 0 ∧ p.evNeg ≠ 0 ∧ p.evPos ≠ p.evNeg ∧
  (p.fbPos.e0 ≠ p.fbNeg.e0 ∧ p.fbPos.e1 ≠ p.fbNeg.e1 ∧ p.fbPos.e0 ≠ p.fbPos.e1 ∧ p.fbPos.e0 ≠ p.fbNeg.e1 ∧
    p.fbNeg.e0 ≠ p.fbPos.e1 ∧ p.fbNeg.e0 ≠ p.fbNeg.e1) ∧
  (∃ j k : Fin 7, j ≠ k ∧ p.profileForce[j] ≠ 0 ∧ p.profileForce[k] ≠ 0 ∧
    ∀ l : Fin 7, l ≠ j → l ≠ k → p.profileForce[l] = 0)

/-- The constraints of 93_implementation_defined.md section 2 on SENTINEL_CODE, CUSTOM_CODE and BOOT_RATE, which the
construction check tests too (log 13). -/
def CodesOk (p : Params) : Prop :=
  16 ≤ p.sentinelCode.toNat ∧ 7 ≤ p.customCode.toNat ∧ p.bootRate ≠ 0b11

/-- `cfg_ok` of 60_exceptions.md R106. -/
def CfgOk (I : Inst) : Prop :=
  (1 ≤ I.cfg.rotaryPPR ∧ I.cfg.rotaryPPR ≤ 256) ∧
  I.cfg.rotaryHold ≤ 255 ∧
  (I.cfg.buttonMap.toNat ≤ 6 ∨ I.cfg.buttonMap = I.par.customCode) ∧
  (∀ i : Fin 12, I.cfg.customMap[i].toNat ≤ 15 ∨ I.cfg.customMap[i] = I.par.sentinelCode) ∧
  I.cfg.rotaryInvert ≤ 3 ∧
  (I.cfg.deviceComm = .usbOnly ∨ I.cfg.deviceComm = .usbPs2) ∧
  (maskOf I.par I.cfg.deviceType = 0x00 ∨ maskOf I.par I.cfg.deviceType = 0xFF)

/-- An instance that reset accepts (R106, R107). -/
structure InstOk (I : Inst) : Prop where
  tables : TablesOk I.par
  codes : CodesOk I.par
  cfg : CfgOk I

/-! ### The invariant -/

/-- What holds of every encoder slot (10_state.md R22; the hold clauses and the unattached slot are DEDUCED from R66 to
R69). With a RotaryHold of at least 1 a nonzero direction has a nonzero hold: the third clause of R22. -/
structure SlotInv (I : Inst) (i : EncId) (x : EncSlot) : Prop where
  fsm_le : x.fsm.toNat ≤ 5
  pos_lt : x.pos.toNat < I.cfg.rotaryPPR
  hold_le : x.hold.toNat ≤ I.cfg.rotaryHold
  dir_held : 1 ≤ I.cfg.rotaryHold → x.dir ≠ .zero → x.hold ≠ 0
  inv_latched : x.attached = true → x.inv = invertFlag I i
  unattached : x.attached = false → x = EncSlot.reset

/-- The place of a phase in the boot and the loop (42_composer.md R84). -/
def MPhase.rank : MPhase → Nat
  | .bootQd => 0
  | .bootAtt0 => 1
  | .bootAtt1 => 2
  | .bootBtn => 3
  | .bootPs2 => 4
  | .read => 5
  | .dir0 => 6
  | .dir1 => 7
  | .publish => 8
  | .restore => 9

/-- The invariant of the block: the instance is legal, the slots are as R22 says, the session is as PS2_INIT left it
(R87, 93 U17), and the phase MAIN has reached vouches for what the earlier phases wrote (R84, R120). -/
structure BlockInv (s : State) : Prop where
  inst_ok : InstOk s.inst
  slots : ∀ i, SlotInv s.inst i (s.enc.get i)
  mask_fixed : ∀ m, s.mask = some m → m = maskOf s.inst.par s.inst.cfg.deviceType
  enabled : s.ps2En = true → s.mask ≠ none ∧ s.inst.cfg.deviceComm = .usbPs2
  disabled : s.ps2En = false → s.ps2Step = 0 ∧ s.tx = none
  timer_rate : s.tmrEn = true ↔ s.tmrRate ≠ none
  booted_timer : 1 ≤ s.mphase.rank → s.tmrEn = true
  booted_slot0 : 2 ≤ s.mphase.rank → s.enc.e0.attached = true
  booted_slot1 : 3 ≤ s.mphase.rank → s.enc.e1.attached = true
  booted_session : 5 ≤ s.mphase.rank → s.mask ≠ none
  read_frame : 6 ≤ s.mphase.rank → s.frame ≠ none
  latched_d0 : 7 ≤ s.mphase.rank → s.d.e0 ≠ none
  latched_d1 : 8 ≤ s.mphase.rank → s.d.e1 ≠ none
  published : 9 ≤ s.mphase.rank → s.outw ≠ none

/-- The operations that run the byte-received handler (43_ps2.md R89): PS2_RX, the exchange (R88), and the wire classes
of 30_encoding.md R54, each the reception of one byte. -/
def receives : Instr → Bool
  | .ps2Rx _ | .ps2Xchg _ | .pollHeader | .cmdMatch | .cmdMismatch _ | .data _ | .idle _ => true
  | .qdInit _ | .qdAttach _ _ | .qdTick _ _ | .timerIrq _ _ | .qdGetdir _ | .qdGetpos _ => false
  | .btnInit | .btnRead _ | .pinsOutput | .cmpLatchdir _ | .cmpPublish | .ps2Init => false

/-! ### Runs -/

/-- The state an operation leaves: the next state, or the state itself where the operation stops. -/
def after (i : Instr) (s : State) : State :=
  match exec i s with
  | .next t => t
  | .fault _ => s
  | .refused _ => s

/-- The state a sequence of operations leaves. -/
def afterAll (is : List Instr) (s : State) : State := is.foldl (fun t i => after i t) s

/-- `k` steps of the block, stopping at the first stop. -/
def steps (k : Nat) (s : State) : Host.Outcome State Fault Refusal :=
  match k with
  | 0 => .next s
  | k + 1 =>
    match step s with
    | .next t => steps k t
    | .fault r => .fault r
    | .refused r => .refused r

def isMain : AgentStep → Bool
  | .main _ _ => true
  | .timer _ _ => false
  | .bus _ => false
  | .getDir _ => false
  | .getPos _ => false
  | .lightsOutput => false

/-- The step taken from `s` is a MAIN step: the oldest request asks for one, or with none pending MAIN is the agent that
the free choice names. -/
def takesMain (s : State) : Bool :=
  match s.pending with
  | .agent a :: _ => isMain a
  | .word _ :: _ => false
  | .wire _ :: _ => false
  | [] => isMain (freeChoice s).1

/-- How many of the next `k` steps from `s` are MAIN steps. -/
def mainSteps (k : Nat) (s : State) : Nat :=
  match k with
  | 0 => 0
  | k + 1 => (if takesMain s then 1 else 0) +
    match step s with
    | .next t => mainSteps k t
    | .fault _ => 0
    | .refused _ => 0

/-- The run from `s` ends: some agent's step or some word raised a fault (70_reset_and_hazards.md R122: there is no other end). -/
def EndsInAFault (s : State) : Prop := ∃ k c, steps k s = .fault (.stuck c)

/-- The run from `s` goes on for ever and MAIN steps again and again in it (70_reset_and_hazards.md R132). -/
def MainStepsForEver (s : State) : Prop := ∀ k, ∃ m t, k ≤ m ∧ steps m s = .next t ∧ takesMain t = true

/-- The state after an operation that faults from `s` (60_exceptions.md R105), where no fault stood before: the code in
the fault register, the event on the trace, no result (the model's field, log 8) and nothing else changed. -/
def faulted (c : FaultCause) (s : State) : State :=
  { s with fault := some c.code, trace := s.trace ++ [.fault c], result := .none }

/-- The rows of spec/opcode_table.json that are operation words, each as its match and its mask. -/
def operationRows : List (OpWord × OpWord) :=
  [(0x01000000, 0xFFFFFFFC), (0x02000000, 0xFFFF0000), (0x03000000, 0xFFFF00FC), (0x04000000, 0xFFFFFFF0),
   (0x05000000, 0xFFFF00FF), (0x06000000, 0xFFFF00FF), (0x10000000, 0xFFFFFFFF), (0x11000000, 0xFFFFF000),
   (0x12000000, 0xFFFFFFFF), (0x20000000, 0xFFFF00FF), (0x21000000, 0xFFFFFFFF), (0x30000000, 0xFFFFFFFF),
   (0x31000000, 0xFFFFFF00), (0x32000000, 0xFFFFFF00)]

/-! ### Detents -/

/-- Whether ticking slot `i` with sample `smp` would produce a detent event (glossary of 00_scope.md section 6). -/
def detentAt (s : State) (i : EncId) (smp : Sample) : Bool :=
  eventField (stateByte s.inst.par (s.enc.get i).fsm smp) != 0

/-- How many detent events a sequence of QD_TICK operations on encoder `i` produces. -/
def detents (i : EncId) (samples : List Sample) (s : State) : Nat :=
  match samples with
  | [] => 0
  | x :: rest => (if detentAt s i x then 1 else 0) + detents i rest (after (.qdTick (BitVec.ofNat 8 i.val) x) s)

/-- The alternation x, y, x, y, ... of `n` samples (40_quadrature.md R75). -/
def alternation (x y : Sample) : Nat → List Sample
  | 0 => []
  | n + 1 => x :: alternation y x n

/-- Two samples that differ in exactly one bit (R75). -/
def Adjacent (x y : Sample) : Prop := x ^^^ y = 1 ∨ x ^^^ y = 2

end Sys2Proof.Machine
end

