-- ==== Sys2Proof/Certificates/Slice0/Obligations.lean ====
section
/-! DEFINITION. The statements for the provers. Each holds for every model instance (every parameter set and
configuration that its hypotheses admit), unless it names the spec's default table. -/

open Sys2Proof Sys2Proof.Machine

/-! ### Encoding -/

/-- Decoding an encoded instruction gives it back: an operation word through `decode`, a wire byte through the class it
has at a step of its class (30_encoding.md R54, R57 to R59). -/
def Obligations.DecodeEncodeRoundTrip : Prop :=
  ∀ i : Instr, i.wellFormed = true →
    (∀ w, encode i = .opWord w → decode w = .ok i) ∧
    (∀ b k, encode i = .wireByte b → i.wireAt k = true → classify k b = i)

/-- The other direction: a legal word is the encoding of the instruction it decodes to, and a byte that of its class,
which is a class of the step it was taken at. -/
def Obligations.DecodedWordIsItsEncoding : Prop :=
  (∀ w i, decode w = .ok i → encode i = .opWord w ∧ i.wellFormed = true) ∧
  (∀ k b, encode (classify k b) = .wireByte b ∧ (classify k b).wireAt k = true ∧ (classify k b).wellFormed = true)

/-- 30_encoding.md R60: a word is legal exactly if it matches a row of the opcode table, it matches at most one row, an
illegal word raises ILLEGAL_OP and changes nothing else, and rate code 0b11 and encoder ids of 2 and above are legal to
decode but fault when executed. -/
def Obligations.LegalWordsAreTheTableRows : Prop :=
  (∀ w, (∃ i, decode w = .ok i) ↔ ∃ r ∈ operationRows, w &&& r.2 = r.1) ∧
  (∀ w, ∀ r ∈ operationRows, ∀ r' ∈ operationRows, w &&& r.2 = r.1 → w &&& r'.2 = r'.1 → r = r') ∧
  (∀ w s rest, s.fault = none → s.pending = .word w :: rest → (∀ r ∈ operationRows, w &&& r.2 ≠ r.1) →
    step s = .next (faulted (.illegalOp w) { s with pending := rest })) ∧
  (∀ s rest, s.fault = none → s.pending = .word 0x01000003 :: rest →
    step s = .next (faulted (.badRate 0b11) { s with pending := rest })) ∧
  (∀ w e i s rest, 2 ≤ e.toNat →
    i ∈ [.qdAttach e (w.extractLsb' 0 8), .qdTick e (w.extractLsb' 0 2), .qdGetdir e, .qdGetpos e, .cmpLatchdir e] →
    encode i = .opWord w → s.fault = none → s.pending = .word w :: rest →
    step s = .next (faulted (.badEncoderId e) { s with pending := rest }))

/-- Words written out from 30_encoding.md R58 and R59 decode to the instructions they stand for (a sanity statement;
the words are those of the examples of R65 to R89). -/
def Obligations.SpecWordsDecode : Prop :=
  decode 0x01000001 = .ok (.qdInit 0b01) ∧ decode 0x02000123 = .ok (.qdAttach 1 0x23) ∧
  decode 0x03000001 = .ok (.qdTick 0 0b01) ∧ decode 0x0400000D = .ok (.timerIrq 0b11 0b01) ∧
  decode 0x11000FFE = .ok (.btnRead 0xFFE) ∧ decode 0x20000100 = .ok (.cmpLatchdir 1) ∧
  decode 0x32000042 = .ok (.ps2Xchg 0x42) ∧ decode 0x07000000 = .error (.unassignedOpcode 0x07)

/-! ### The step -/

/-- A step runs the decoded instruction: the oldest pending operation word, decoded, is executed on the state without it. -/
def Obligations.StepRunsTheDecodedWord : Prop :=
  ∀ s w rest i, s.fault = none → s.pending = .word w :: rest → decode w = .ok i →
    step s = exec i { s with pending := rest }

/-- A received byte is executed as the class R54 gives it at the current step: the header at any step, then CMD_MATCH or
CMD_MISMATCH at step 1, IDLE at step 5, DATA at the steps 0, 2, 3 and 4. -/
def Obligations.StepRunsTheWireClass : Prop :=
  ∀ s b rest, s.fault = none → s.pending = .wire b :: rest →
    (b = 0x01 → step s = exec .pollHeader { s with pending := rest }) ∧
    (b = 0x42 → s.ps2Step = 1 → step s = exec .cmdMatch { s with pending := rest }) ∧
    (b ≠ 0x01 → b ≠ 0x42 → s.ps2Step = 1 → step s = exec (.cmdMismatch b) { s with pending := rest }) ∧
    (b ≠ 0x01 → s.ps2Step ∈ [0, 2, 3, 4] → step s = exec (.data b) { s with pending := rest }) ∧
    (b ≠ 0x01 → s.ps2Step = 5 → step s = exec (.idle b) { s with pending := rest })

/-- An agent step runs the agent's operation (00_scope.md R5): TIMER a TIMER_IRQ with samples {B, A}, BUS a PS2_XCHG,
ENV its accessors and the light driver's PINS_OUTPUT. With nothing pending the agent and its draws are free (log 5), but
where no step is left to wait for MAIN it is MAIN, and a wait of n + 1 steps becomes one of n (log 17). -/
def Obligations.StepRunsTheAgentsOperation : Prop :=
  ∀ s rest, s.fault = none →
    (∀ p1 p0, s.pending = .agent (.timer p1 p0) :: rest →
      step s = exec (.timerIrq (BitVec.ofBool p1.b ++ BitVec.ofBool p1.a) (BitVec.ofBool p0.b ++ BitVec.ofBool p0.a))
        { s with pending := rest }) ∧
    (∀ b, s.pending = .agent (.bus b) :: rest → step s = exec (.ps2Xchg b) { s with pending := rest }) ∧
    (∀ e, s.pending = .agent (.getDir e) :: rest → step s = exec (.qdGetdir e) { s with pending := rest }) ∧
    (∀ e, s.pending = .agent (.getPos e) :: rest → step s = exec (.qdGetpos e) { s with pending := rest }) ∧
    (s.pending = .agent .lightsOutput :: rest → step s = exec .pinsOutput { s with pending := rest }) ∧
    (s.pending = [] → ∃ a k, step s = step { s with pending := [.agent a], draws := s.draws + 1, mainDue := k } ∧
      (s.mainDue = some 0 → isMain a = true ∧ k = none) ∧ (∀ n, s.mainDue = some (n + 1) → k = some n))

/-- 42_composer.md R84: each MAIN step carries out the operation of the current phase and then advances the phase; after
a fault the phase does not advance. The READ phase's levels are assembled from the ports drawn for it (log 6). -/
def Obligations.MainStepRunsItsPhase : Prop :=
  ∀ s p1 p2 rest, s.fault = none → s.pending = .agent (.main p1 p2) :: rest →
    let u : State := { s with pending := rest }
    ∀ i next,
      (s.mphase, i, next) ∈
        [(MPhase.bootQd, Instr.qdInit s.inst.par.bootRate, MPhase.bootAtt0),
         (.bootAtt0, .qdAttach 0 s.inst.par.pinpair.e0, .bootAtt1),
         (.bootAtt1, .qdAttach 1 s.inst.par.pinpair.e1, .bootBtn),
         (.bootBtn, .btnInit, .bootPs2),
         (.bootPs2, .ps2Init, .read),
         (.read, .btnRead (rawLevels s.inst.par.portbNibble p1 p2), .dir0),
         (.dir0, .cmpLatchdir 0, .dir1),
         (.dir1, .cmpLatchdir 1, .publish),
         (.publish, .cmpPublish, .restore),
         (.restore, .pinsOutput, .read)] →
      ∃ t, exec i u = .next t ∧
        (t.fault = none → step s = .next { t with mphase := next }) ∧
        (t.fault ≠ none → step s = .next t)

/-- Operations issued directly do not read or change the MAIN phase, and no operation changes the instance or the requests
still pending (R84; 10_state.md R17, R18). -/
def Obligations.OperationsLeavePhaseAndInstance : Prop :=
  (∀ i s t, exec i s = .next t → t.mphase = s.mphase ∧ t.inst = s.inst ∧ t.pending = s.pending) ∧
  (∀ i s t p, exec i s = .next t → exec i { s with mphase := p } = .next { t with mphase := p })

/-- The static tables and the configuration are constant for the whole of a run: no step of any agent writes them
(10_state.md R17, R18; 20_memory.md R46). -/
def Obligations.InstanceIsConstant : Prop :=
  ∀ k s t, steps k s = .next t → t.inst = s.inst

/-- A table row placed by `State.withFetchWord` is what the very next step runs (log 5), at the step counter withFetchWord
leaves: for an operation word and the header byte the one `s` had; for every wire byte one at which the byte is of the
row's class (log 7; 30_encoding.md R54). -/
def Obligations.TableWordRunsAsTheNextStep : Prop :=
  ∀ (s : State) (nbits w : Nat) (i : Instr), s.fault = none → decodeTableWord nbits w = some i →
    let k := (s.withFetchWord nbits w).ps2Step
    (8 < nbits ∨ i = .pollHeader → k = s.ps2Step) ∧ (nbits ≤ 8 → i.wireAt k = true ∧ classify k (BitVec.ofNat 8 w) = i) ∧
      step (s.withFetchWord nbits w) = exec i { s with ps2Step := k }

/-! ### Faults -/

/-- 60_exceptions.md R105: an operation that raises a fault records the code, emits FAULT with its information and changes
nothing else (the model's result field apart, log 8); a fault never overwrites an earlier one; a faulted block has no step. -/
def Obligations.FaultsAreStickyAndStopTheBlock : Prop :=
  (∀ i s t, exec i s = .next t → s.fault = none → t.fault ≠ none → ∃ c, t = faulted c s) ∧
  (∀ i s t c, exec i s = .next t → s.fault = some c → t.fault = some c) ∧
  (∀ s c, s.fault = some c → step s = .fault (.stuck c))

/-- Which operations raise which fault (60_exceptions.md R104, the codes an operation can raise): QD_INIT raises BAD_RATE
exactly for rate 0b11, the encoder operations BAD_ENCODER_ID exactly for an id of 2 or above and (QD_ATTACH apart)
NOT_ATTACHED exactly for an unattached slot, CMP_PUBLISH UNWRITTEN exactly for a latch never written. No operation raises
another code, so the PS/2 handler, TIMER_IRQ and the buttons raise none. -/
def Obligations.FaultsRaisedExactly : Prop :=
  ∀ i s, s.fault = none → ∃ t, exec i s = .next t ∧
    (t.fault = some .badRate ↔ i = .qdInit 0b11) ∧
    (t.fault = some .badEncoderId ↔ ∃ e p smp,
      i ∈ [.qdAttach e p, .qdTick e smp, .qdGetdir e, .qdGetpos e, .cmpLatchdir e] ∧ 2 ≤ e.toNat) ∧
    (t.fault = some .notAttached ↔ ∃ e smp, i ∈ [.qdTick e smp, .qdGetdir e, .qdGetpos e, .cmpLatchdir e] ∧
      ∃ j : EncId, e.toNat = j.val ∧ (s.enc.get j).attached = false) ∧
    (t.fault = some .unwritten ↔ i = .cmpPublish ∧ (s.frame = none ∨ s.d.e0 = none ∨ s.d.e1 = none)) ∧
    (t.fault = none ∨ t.fault = some .badRate ∨ t.fault = some .badEncoderId ∨ t.fault = some .notAttached ∨
      t.fault = some .unwritten)

/-- 40_quadrature.md R64: every operation that takes an encoder id checks it first, and all but QD_ATTACH check that the
slot is attached; an operation whose checks pass raises nothing. -/
def Obligations.EncoderIdsAreChecked : Prop :=
  ∀ e p smp s i, s.fault = none →
    (2 ≤ e.toNat → i ∈ [.qdAttach e p, .qdTick e smp, .qdGetdir e, .qdGetpos e, .cmpLatchdir e] →
      exec i s = .next (faulted (.badEncoderId e) s)) ∧
    (∀ j : EncId, e.toNat = j.val → (s.enc.get j).attached = false →
      i ∈ [.qdTick e smp, .qdGetdir e, .qdGetpos e, .cmpLatchdir e] →
      exec i s = .next (faulted (.notAttached e) s)) ∧
    (∀ j : EncId, e.toNat = j.val →
      i = .qdAttach e p ∨
        (s.enc.get j).attached = true ∧ i ∈ [.qdTick e smp, .qdGetdir e, .qdGetpos e, .cmpLatchdir e] →
      ∃ t, exec i s = .next t ∧ t.fault = none)

/-- Each shared element has its writers and no others (20_memory.md R45; the "written by" columns of 10_state.md R20 to
R26), field by field: an operation that changes one is one of those listed. QD_ATTACH alone writes a slot's attach bit, pin
pair and inversion flag; QD_TICK and TIMER_IRQ write the rest of it too; PS2_INIT writes the step and not `tx` (43_ps2.md
R87); the handler writes both, and nothing while the emulator is disabled (R88, R89). -/
def Obligations.SharedStateHasItsWriters : Prop :=
  ∀ i s t, exec i s = .next t →
    (∀ j : EncId,
      let x := s.enc.get j
      let y := t.enc.get j
      (y.attached ≠ x.attached ∨ y.pinpair ≠ x.pinpair ∨ y.inv ≠ x.inv → ∃ e p, i = .qdAttach e p ∧ e.toNat = j.val) ∧
      (y.fsm ≠ x.fsm ∨ y.pos ≠ x.pos ∨ y.dir ≠ x.dir ∨ y.hold ≠ x.hold →
        (∃ e p smp, (i = .qdAttach e p ∨ i = .qdTick e smp) ∧ e.toNat = j.val) ∨ ∃ s1 s0, i = .timerIrq s1 s0)) ∧
    (t.tmrEn ≠ s.tmrEn ∨ t.tmrRate ≠ s.tmrRate → ∃ r, i = .qdInit r) ∧
    (t.pinmode ≠ s.pinmode → i = .btnInit ∨ i = .pinsOutput ∨ ∃ lv, i = .btnRead lv) ∧
    (t.frame ≠ s.frame → ∃ lv, i = .btnRead lv) ∧
    (t.d ≠ s.d → ∃ e, i = .cmpLatchdir e) ∧
    (t.outw ≠ s.outw → i = .cmpPublish) ∧
    (t.ps2En ≠ s.ps2En ∨ t.mask ≠ s.mask → i = .ps2Init) ∧
    (t.ps2Step ≠ s.ps2Step → i = .ps2Init ∨ (s.ps2En = true ∧ receives i = true)) ∧
    (t.tx ≠ s.tx → s.ps2En = true ∧ receives i = true)

/-- The trace only grows, and which operations add which events (10_state.md R28): XCHG only a PS2_XCHG, with its byte;
ACTIVE and ACK only the operations that run the byte-received handler, and XCHG, ACTIVE and ACK only while the emulator is
enabled (43_ps2.md R88, R89, R90); FAULT only an operation that raises that fault, and then nothing else (60_exceptions.md
R105; the event carries the information, log 12). -/
def Obligations.TraceOnlyGrows : Prop :=
  ∀ i s t, exec i s = .next t → ∃ l, t.trace = s.trace ++ l ∧
    (∀ b miso, .xchg b miso ∈ l → i = .ps2Xchg b ∧ s.ps2En = true) ∧
    (.active ∈ l ∨ .ack ∈ l → s.ps2En = true ∧ receives i = true) ∧
    (∀ c, .fault c ∈ l → l = [.fault c] ∧ t.fault ≠ none ∧ (s.fault = none → t = faulted c s))

/-! ### Reset -/

/-- 10_state.md R29: the value of every state element after reset, for every legal instance. -/
def Obligations.ResetValues : Prop :=
  ∀ I, InstOk I →
    let s := State.resetOf I
    let slot : EncSlot :=
      { attached := false, pinpair := none, fsm := 0, pos := 0, dir := .zero, hold := 0, inv := false }
    s.inst = I ∧ s.tmrEn = false ∧ s.tmrRate = none ∧ s.enc = ⟨slot, slot⟩ ∧ s.pinmode = .unconfigured ∧ s.frame = none ∧
    s.d = ⟨none, none⟩ ∧ s.mphase = .bootQd ∧ s.outw = none ∧ s.ps2En = false ∧ s.mask = none ∧ s.ps2Step = 0 ∧
    s.tx = none ∧ s.fault = none ∧ s.trace = []

/-- 60_exceptions.md R106 and R107: reset raises a fault exactly for an instance that is not legal, TABLE_ILLFORMED before
BAD_CONFIG (70_reset_and_hazards.md R119), and then no agent ever steps. The constraints `CodesOk` on the stored codes and
the boot rate are those of 93_implementation_defined.md section 2; that they raise TABLE_ILLFORMED is the model's choice
(log 13). That the trace after a failed reset is the one event FAULT(BAD_CONFIG, RotaryPPR), for a PPR outside 1..256, is
the model's reading too (log 12; R29 gives an empty trace, for a legal instance). -/
def Obligations.ResetRejectsIllegalInstances : Prop :=
  ∀ I, ((State.resetOf I).fault = none ↔ InstOk I) ∧
    (¬ (TablesOk I.par ∧ CodesOk I.par) → (State.resetOf I).fault = some .tableIllformed) ∧
    (TablesOk I.par → CodesOk I.par → ¬ CfgOk I → (State.resetOf I).fault = some .badConfig) ∧
    (TablesOk I.par → CodesOk I.par → I.cfg.rotaryPPR = 0 ∨ 256 < I.cfg.rotaryPPR →
      (State.resetOf I).trace = [.fault (.badConfig .rotaryPPR)]) ∧
    (¬ InstOk I → ∀ p, ∃ c, step { State.resetOf I with pending := p } = .fault (.stuck c))

/-- The invariant holds right after reset, for every legal instance and for the one State.reset names (log 2). -/
def Obligations.ResetMeetsTheInvariant : Prop :=
  (∀ I, InstOk I → BlockInv (State.resetOf I)) ∧ BlockInv State.reset

/-- Every step keeps the invariant: any agent, any draws, any operation word, legal or not. -/
def Obligations.EveryStepKeepsTheInvariant : Prop :=
  ∀ s t, BlockInv s → step s = .next t → BlockInv t

/-! ### QuadratureDecoder -/

/-- QD_INIT (40_quadrature.md R65): rate codes 0b00, 0b01 and 0b10 record 1, 2 and 4 kHz and enable the timer; 0b11 raises
BAD_RATE. -/
def Obligations.QdInitStartsTheTimer : Prop :=
  ∀ s, exec (.qdInit 0b00) s = .next { s with tmrRate := some .khz1, tmrEn := true, result := .none } ∧
    exec (.qdInit 0b01) s = .next { s with tmrRate := some .khz2, tmrEn := true, result := .none } ∧
    exec (.qdInit 0b10) s = .next { s with tmrRate := some .khz4, tmrEn := true, result := .none } ∧
    (s.fault = none → exec (.qdInit 0b11) s = .next (faulted (.badRate 0b11) s))

/-- QD_ATTACH (R66): every field of the slot, attached before or not, and nothing else; BAD_ENCODER_ID for an id of 2 and
above. -/
def Obligations.QdAttachCreatesTheSlot : Prop :=
  ∀ s e p,
    (∀ j : EncId, e.toNat = j.val →
      exec (.qdAttach e p) s = .next
        { s with
          enc := s.enc.set j
            { attached := true, pinpair := some p, fsm := 0, pos := 0, dir := .zero, hold := 0,
              inv := s.inst.cfg.rotaryInvert.testBit j.val }
          result := .none }) ∧
    (2 ≤ e.toNat → s.fault = none → exec (.qdAttach e p) s = .next (faulted (.badEncoderId e) s))

/-- QD_TICK (R67, R68, R69) on an attached slot: the FSM takes the low nibble of the table's state byte; an event moves
the position by one modulo PPR, sets the direction and loads the hold; no event leaves the position, decrements the hold
down to 0 and clears the direction when it is 0. Nothing else changes. -/
def Obligations.QdTickAdvancesTheSlot : Prop :=
  ∀ s e smp, ∀ j : EncId, e.toNat = j.val →
    let x := s.enc.get j
    let P := s.inst.cfg.rotaryPPR
    x.attached = true → x.fsm.toNat ≤ 5 → 1 ≤ P → P ≤ 256 → s.inst.cfg.rotaryHold ≤ 255 →
    s.inst.par.evPos ≠ s.inst.par.evNeg →
    ∃ t y, qentry s.inst.par x.fsm.toNat smp.toNat = some t ∧
      exec (.qdTick e smp) s = .next { s with enc := s.enc.set j y, result := .none } ∧
      y.fsm.toNat = t.toNat % 16 ∧ y.attached = true ∧ y.pinpair = x.pinpair ∧ y.inv = x.inv ∧
      (t.extractLsb' 4 4 = s.inst.par.evPos →
        y.pos.toNat = (P + x.pos.toNat + 1) % P ∧ y.dir = .pos ∧ y.hold.toNat = s.inst.cfg.rotaryHold) ∧
      (t.extractLsb' 4 4 = s.inst.par.evNeg →
        y.pos.toNat = (P + x.pos.toNat - 1) % P ∧ y.dir = .neg ∧ y.hold.toNat = s.inst.cfg.rotaryHold) ∧
      (t.extractLsb' 4 4 ≠ s.inst.par.evPos → t.extractLsb' 4 4 ≠ s.inst.par.evNeg →
        y.pos = x.pos ∧ y.hold.toNat = x.hold.toNat - 1 ∧ y.dir = if y.hold = 0 then .zero else x.dir)

/-- TIMER_IRQ (R70): no effect while the timer is off; else each attached slot is ticked with its own sample, each
unattached one skipped, neither order seen, no fault and nothing else changed. -/
def Obligations.TimerIrqTicksTheAttachedSlots : Prop :=
  ∀ s s1 s0,
    (s.tmrEn = false → exec (.timerIrq s1 s0) s = .next { s with result := .none }) ∧
    (s.tmrEn = true → exec (.timerIrq s1 s0) s = .next
      { s with
        enc := ⟨if s.enc.e0.attached then (after (.qdTick 0 s0) s).enc.e0 else s.enc.e0,
                if s.enc.e1.attached then (after (.qdTick 1 s1) s).enc.e1 else s.enc.e1⟩
        result := .none })

/-- QD_GETDIR and QD_GETPOS (R71, R72; the result bytes of 30_encoding.md R50): the stored direction and position through
the inversion flag, with no side effect; an inverted position lies in [256 - PPR, 255]. -/
def Obligations.AccessorsReadThroughTheInversion : Prop :=
  ∀ s e, ∀ j : EncId, e.toNat = j.val →
    let x := s.enc.get j
    x.attached = true → ∃ d p : Byte,
      exec (.qdGetdir e) s = .next { s with result := .byte d } ∧
      exec (.qdGetpos e) s = .next { s with result := .byte p } ∧
      (x.dir = .zero → d = 0x00) ∧
      (x.inv = false → (x.dir = .pos → d = 0x01) ∧ (x.dir = .neg → d = 0xFF) ∧ p = x.pos) ∧
      (x.inv = true → (x.dir = .pos → d = 0xFF) ∧ (x.dir = .neg → d = 0x01) ∧ p.toNat = 255 - x.pos.toNat ∧
        ∀ P, P ≤ 256 → x.pos.toNat < P → 256 - P ≤ p.toNat ∧ p.toNat ≤ 255)

/-- 40_quadrature.md R73: for every sequence of QD_TICK operations on an attached slot and every PPR in 1..256 the stored
position stays in [0, PPR). -/
def Obligations.PositionStaysBelowPpr : Prop :=
  ∀ (j : EncId) (samples : List Sample) (s : State), (s.enc.get j).attached = true →
    1 ≤ s.inst.cfg.rotaryPPR → s.inst.cfg.rotaryPPR ≤ 256 → (s.enc.get j).pos.toNat < s.inst.cfg.rotaryPPR →
    ((afterAll (samples.map (.qdTick (BitVec.ofNat 8 j.val))) s).enc.get j).pos.toNat < s.inst.cfg.rotaryPPR

/-- 40_quadrature.md R74: a fixed sample sequence into a freshly attached slot gives a fixed (position, direction)
sequence, whatever the rest of the state, whichever slot and whichever pin pair. -/
def Obligations.DecodingIsDeterministic : Prop :=
  ∀ (i j : EncId) (p q : Byte) (samples : List Sample) (s s' : State), s.inst = s'.inst →
    let x := (afterAll (.qdAttach (BitVec.ofNat 8 i.val) p :: samples.map (.qdTick (BitVec.ofNat 8 i.val))) s).enc.get i
    let x' := (afterAll (.qdAttach (BitVec.ofNat 8 j.val) q :: samples.map (.qdTick (BitVec.ofNat 8 j.val))) s').enc.get j
    x.pos = x'.pos ∧ x.dir = x'.dir

/-- 40_quadrature.md R75 for the default table of 30_encoding.md R49: an alternation of two samples that differ in exactly
one bit, of any length and from any FSM state, produces at most one detent event; within two samples it enters an
event-free cycle of length 2. -/
def Obligations.BounceGivesAtMostOneDetent : Prop :=
  ∀ (j : EncId) (s : State) (x y : Sample) (n : Nat), s.inst.par.qtable = defaultQTable → s.inst.par.evPos = 1 →
    s.inst.par.evNeg = 2 → (s.enc.get j).attached = true → (s.enc.get j).fsm.toNat ≤ 5 → Adjacent x y →
    let ticked := fun k => afterAll ((alternation x y k).map (.qdTick (BitVec.ofNat 8 j.val))) s
    detents j (alternation x y n) s ≤ 1 ∧
    detents j (alternation x y n) (ticked 2) = 0 ∧
    ((ticked (n + 4)).enc.get j).fsm = ((ticked (n + 2)).enc.get j).fsm

/-- 40_quadrature.md R69: after a detent that loaded a hold of H ≥ 1 the direction stays through H - 1 further no-event
ticks and becomes 0 on the H-th; the hold counts down and never goes below 0; the position does not move. -/
def Obligations.HoldKeepsTheDirectionForItsTicks : Prop :=
  ∀ (j : EncId) (samples : List Sample) (s : State), (s.enc.get j).attached = true →
    s.inst.par.evPos ≠ 0 → s.inst.par.evNeg ≠ 0 → 1 ≤ (s.enc.get j).hold.toNat → detents j samples s = 0 →
    let x := s.enc.get j
    let y := (afterAll (samples.map (.qdTick (BitVec.ofNat 8 j.val))) s).enc.get j
    y.hold.toNat = x.hold.toNat - samples.length ∧ y.pos = x.pos ∧
    (samples.length < x.hold.toNat → y.dir = x.dir) ∧ (x.hold.toNat ≤ samples.length → y.dir = .zero)

/-! ### Buttons -/

/-- BTN_INIT, BTN_READ and PINS_OUTPUT (41_buttons.md R77, R78, R79): the pin mode each leaves, and the frame in which a
button is pressed exactly if its pin is low; nothing else changes, and BTN_READ does not restore the mode. -/
def Obligations.ButtonOperations : Prop :=
  ∀ s lv,
    exec .btnInit s = .next { s with pinmode := .inputPullup, result := .none } ∧
    exec .pinsOutput s = .next { s with pinmode := .output, result := .none } ∧
    ∃ f : Frame, (∀ i, i < 12 → f.getLsbD i = !lv.getLsbD i) ∧
      exec (.btnRead lv) s = .next { s with pinmode := .inputPullup, frame := some f, result := .frame f }

/-- A MAIN step in the READ phase samples the two ports (41_buttons.md R76): buttons 7..0 are the first port's pins, the
others the chosen nibble of the second, pressed where the pin is low. -/
def Obligations.ReadPhaseSamplesThePorts : Prop :=
  ∀ s p1 p2 rest, s.fault = none → s.mphase = .read → s.pending = .agent (.main p1 p2) :: rest →
    ∃ f : Frame,
      step s = .next
        { s with
          pinmode := .inputPullup
          frame := some f
          result := .frame f
          mphase := .dir0
          pending := rest } ∧
      (∀ k, k < 8 → f.getLsbD k = !p1.getLsbD k) ∧
      (∀ k, k < 4 → f.getLsbD (8 + k) =
        !(match s.inst.par.portbNibble with | .low => p2.getLsbD k | .high => p2.getLsbD (4 + k)))

/-! ### InputComposer -/

/-- Compose (42_composer.md R80), bit by bit: bit k of the result is 0 exactly if a pressed button is mapped to k, or an
encoder's fallback bit for its direction is k, or k is forced. So a forced bit is 0 in every result. -/
def Obligations.ComposeBitByBit : Prop :=
  ∀ (p : Params) (frame : Frame) (d0 d1 : Dir) (map : Mapping) (force : OutWord) (k : BitVec 4),
    (compose p frame d0 d1 map force).getLsbD k.toNat = false ↔
      (∃ i : Fin 12, frame.getLsbD i.val = true ∧ map[i] = some k) ∨
      (d0 = .pos ∧ p.fbPos.e0 = k) ∨ (d0 = .neg ∧ p.fbNeg.e0 = k) ∨
      (d1 = .pos ∧ p.fbPos.e1 = k) ∨ (d1 = .neg ∧ p.fbNeg.e1 = k) ∨
      force.getLsbD k.toNat = true

/-- 42_composer.md R85: with every entry UNMAPPED, both directions 0 and nothing forced, Compose gives 0xFFFF for every
frame. -/
def Obligations.UnmappedCustomComposesToOnes : Prop :=
  ∀ (p : Params) (frame : Frame) (map : Mapping), (∀ i : Fin 12, map[i] = none) →
    compose p frame .zero .zero map 0 = 0xFFFF

/-- 42_composer.md R86: only button 0 pressed and mapped to k, both directions 0: the result is the complement of
`(1 << k) | FORCE`, and the word before the override (the complement of the result with nothing forced) is `1 << k`. -/
def Obligations.SingleButtonComposes : Prop :=
  ∀ (p : Params) (map : Mapping) (k : BitVec 4) (force : OutWord), map[(0 : Fin 12)] = some k →
    compose p 0x001 .zero .zero map force = ~~~((1#16 <<< k.toNat) ||| force) ∧
    ~~~(compose p 0x001 .zero .zero map 0) = 1#16 <<< k.toNat

/-- 10_state.md R19: the active mapping and forced bits are those of the profile ButtonMap names, or CustomMap and none;
a CustomMap entry is a bit index or, at the sentinel code, UNMAPPED (30_encoding.md R52). -/
def Obligations.ActiveMappingFollowsButtonMap : Prop :=
  ∀ I, InstOk I →
    (∀ k : Fin 7, I.cfg.buttonMap.toNat = k.val →
      activeMap I = I.par.profileMap[k] ∧ activeForce I = I.par.profileForce[k]) ∧
    (I.cfg.buttonMap = I.par.customCode → activeForce I = 0 ∧ ∀ i : Fin 12,
      (∀ b : BitVec 4, I.cfg.customMap[i].toNat = b.toNat → (activeMap I)[i] = some b) ∧
      (I.cfg.customMap[i] = I.par.sentinelCode → (activeMap I)[i] = none))

/-- CMP_LATCHDIR (42_composer.md R82): the latch takes the direction as QD_GETDIR sees it; nothing else changes. -/
def Obligations.LatchTakesTheVisibleDirection : Prop :=
  ∀ s e, ∀ j : EncId, e.toNat = j.val → (s.enc.get j).attached = true →
    ∃ d, exec (.cmpLatchdir e) s = .next { s with d := s.d.set j (some d), result := .none } ∧
      ((s.enc.get j).inv = false → d = (s.enc.get j).dir) ∧
      ((s.enc.get j).inv = true →
        ((s.enc.get j).dir, d) ∈ [(Dir.pos, Dir.neg), (Dir.neg, Dir.pos), (Dir.zero, Dir.zero)])

/-- CMP_PUBLISH (42_composer.md R83): the whole outgoing word is written in one step from the latches, the active mapping
and the forced bits; if a latch has never been written it raises UNWRITTEN with the name of such a latch instead. -/
def Obligations.PublishWritesTheComposedWord : Prop :=
  ∀ s,
    (∀ f d0 d1, s.frame = some f → s.d.e0 = some d0 → s.d.e1 = some d1 →
      exec .cmpPublish s = .next
        { s with outw := some (compose s.inst.par f d0 d1 (activeMap s.inst) (activeForce s.inst)), result := .none }) ∧
    (s.fault = none → s.frame = none ∨ s.d.e0 = none ∨ s.d.e1 = none →
      ∃ l, (l = Latch.frame ∧ s.frame = none ∨ l = .d0 ∧ s.d.e0 = none ∨ l = .d1 ∧ s.d.e1 = none) ∧
        exec .cmpPublish s = .next (faulted (.unwritten l) s))

/-! ### MAIN -/

/-- The boot (42_composer.md R84, 70_reset_and_hazards.md R120): from the reset of any legal instance the five boot
phases run without a fault and leave the timer on, both slots attached, the pins as inputs, and the session as PS2_INIT
sets it; the outgoing word is still ⊥ (R121). -/
def Obligations.BootReachesTheLoop : Prop :=
  ∀ I, InstOk I → ∀ m : Nat → Byte × Byte, ∃ rate, rateOfCode I.par.bootRate = some rate ∧
    let slot := fun (i : EncId) (p : Byte) =>
      ({ attached := true, pinpair := some p, fsm := 0, pos := 0, dir := .zero, hold := 0,
         inv := I.cfg.rotaryInvert.testBit i.val } : EncSlot)
    steps 5 { State.resetOf I with
        pending := (List.range 5).map fun n => .agent (.main (m n).1 (m n).2) } =
      .next { State.resetOf I with
        tmrEn := true, tmrRate := some rate, enc := ⟨slot 0 I.par.pinpair.e0, slot 1 I.par.pinpair.e1⟩,
        pinmode := .inputPullup, mphase := .read, ps2En := decide (I.cfg.deviceComm = .usbPs2),
        mask := some (maskOf I.par I.cfg.deviceType) }

/-- One iteration of the main loop (42_composer.md R84, the pseudo-operation MAIN_ITER of 30_encoding.md R63): five MAIN
steps from READ publish the word composed from the buttons read and the visible directions, give the pins back to the
lights and return to READ. -/
def Obligations.MainIterationPublishes : Prop :=
  ∀ s p1 p2 rest (m : Nat → Byte × Byte), s.fault = none → s.mphase = .read →
    s.enc.e0.attached = true → s.enc.e1.attached = true →
    s.pending = .agent (.main p1 p2) :: ((List.range 4).map fun n => .agent (.main (m n).1 (m n).2)) ++ rest →
    let f : Frame := ~~~ (rawLevels s.inst.par.portbNibble p1 p2)
    let d0 := visibleDir s.enc.e0
    let d1 := visibleDir s.enc.e1
    steps 5 s = .next { s with
      pinmode := .output, frame := some f, d := ⟨some d0, some d1⟩,
      outw := some (compose s.inst.par f d0 d1 (activeMap s.inst) (activeForce s.inst)),
      result := .none, pending := rest }

/-- In every state of the invariant an agent step completes, and it raises a fault only if it is a host accessor with an
id out of range or a slot not yet attached: TIMER, BUS, MAIN and the light driver never fault (R70, R84, R88, R104). -/
def Obligations.AgentsFaultOnlyThroughAccessors : Prop :=
  ∀ s a rest, BlockInv s → s.fault = none → s.pending = .agent a :: rest →
    ∃ t, step s = .next t ∧
      (t.fault ≠ none → ∃ e, (a = .getDir e ∨ a = .getPos e) ∧
        ∀ j : EncId, e.toNat = j.val → (s.enc.get j).attached = false)

/-- What MAIN's fairness gives (70_reset_and_hazards.md R132) over the phases of 42_composer.md R84: whatever the other
agents do in between, a run without a fault in which MAIN takes eight steps comes to the PUBLISH phase. -/
def Obligations.EightMainStepsReachPublish : Prop :=
  ∀ s t k, steps k s = .next t → t.fault = none → 8 ≤ mainSteps k s →
    ∃ j u, j ≤ k ∧ steps j s = .next u ∧ u.mphase = .publish

/-! ### PS2ProtocolEmulator -/

/-- PS2_INIT (43_ps2.md R87): mask, step and enable; `tx` and everything else unchanged. -/
def Obligations.Ps2InitFixesTheSession : Prop :=
  ∀ s, exec .ps2Init s = .next
    { s with
      mask := some (maskOf s.inst.par s.inst.cfg.deviceType)
      ps2Step := 0
      ps2En := decide (s.inst.cfg.deviceComm = .usbPs2)
      result := .none }

/-- While the emulator is disabled (43_ps2.md R88, R89) the handler has no effect, whatever the byte, and an exchange
shifts out a free byte and changes nothing (the draw count is the model's, log 4). -/
def Obligations.DisabledEmulatorIgnoresBytes : Prop :=
  ∀ s b, s.ps2En = false →
    (∀ i ∈ [.ps2Rx b, .pollHeader, .cmdMatch, .cmdMismatch b, .data b, .idle b],
      exec i s = .next { s with result := .none }) ∧
    exec (.ps2Xchg b) s = .next { s with result := .byte (Config.freeByte s.draws), draws := s.draws + 1 }

/-- 43_ps2.md R102 (with R91, R92): in any state with the emulator enabled, receiving 0x01 leaves step 1 and
tx = ID1 ^ m, and the trace ends ACTIVE, ACK; nothing else changes. -/
def Obligations.HeaderRestartsThePoll : Prop :=
  ∀ s m, s.ps2En = true → s.mask = some m → ∀ i ∈ [.ps2Rx 0x01, .pollHeader],
    exec i s = .next
      { s with ps2Step := 1, tx := some (s.inst.par.id1 ^^^ m), trace := s.trace ++ [.active, .ack], result := .none }

/-- 43_ps2.md R103 (with R93): at step 1, 0x42 gives ID2 ^ m, an ACK and step 2; any byte other than 0x42 and 0x01 gives
tx = ⊥, no ACK and step 2. -/
def Obligations.CommandByteIsChecked : Prop :=
  ∀ s m b, s.ps2En = true → s.mask = some m → s.ps2Step = 1 →
    (∀ i ∈ [.ps2Rx 0x42, .cmdMatch], exec i s = .next
      { s with ps2Step := 2, tx := some (s.inst.par.id2 ^^^ m), trace := s.trace ++ [.active, .ack], result := .none }) ∧
    (b ≠ 0x01 → b ≠ 0x42 → ∀ i ∈ [.ps2Rx b, .cmdMismatch b], exec i s = .next
      { s with ps2Step := 2, tx := none, trace := s.trace ++ [.active], result := .none })

/-- The unconditional steps (43_ps2.md R92, R94, R95, R96) for any byte but the header: ID1, the low and the high byte of
the word published last, and the filler, each XOR the mask, each acknowledged; nothing else changes. -/
def Obligations.DataStepsReply : Prop :=
  ∀ s m b, s.ps2En = true → s.mask = some m → b ≠ 0x01 → ∀ i ∈ [.ps2Rx b, .data b],
    (s.ps2Step = 0 → exec i s = .next
      { s with ps2Step := 1, tx := some (s.inst.par.id1 ^^^ m), trace := s.trace ++ [.active, .ack], result := .none }) ∧
    (∀ w, s.ps2Step = 2 → s.outw = some w → exec i s = .next
      { s with ps2Step := 3, tx := some (w.extractLsb' 0 8 ^^^ m), trace := s.trace ++ [.active, .ack], result := .none }) ∧
    (∀ w, s.ps2Step = 3 → s.outw = some w → exec i s = .next
      { s with ps2Step := 4, tx := some (w.extractLsb' 8 8 ^^^ m), trace := s.trace ++ [.active, .ack], result := .none }) ∧
    (s.ps2Step = 4 → exec i s = .next
      { s with ps2Step := 5, tx := some (0xFF ^^^ m), trace := s.trace ++ [.active, .ack], result := .none })

/-- Before the first publish (43_ps2.md R94, R95; U8) steps 2 and 3 reply with a free byte, masked and acknowledged. -/
def Obligations.UnpublishedWordRepliesAFreeByte : Prop :=
  ∀ s m b, s.ps2En = true → s.mask = some m → b ≠ 0x01 → s.outw = none → ∀ i ∈ [.ps2Rx b, .data b],
    ∀ k, (s.ps2Step, k) ∈ [((2 : Fin 6), (3 : Fin 6)), (3, 4)] →
      exec i s = .next
        { s with
          ps2Step := k
          tx := some (Config.freeByte s.draws ^^^ m)
          trace := s.trace ++ [.active, .ack]
          draws := s.draws + 1
          result := .none }

/-- 43_ps2.md R97: in the region ≥ 5 the handler loads the filler without acknowledging and the step stays 5. -/
def Obligations.IdleStepSendsUnacknowledgedFiller : Prop :=
  ∀ s m b, s.ps2En = true → s.mask = some m → b ≠ 0x01 → s.ps2Step = 5 → ∀ i ∈ [.ps2Rx b, .idle b],
    exec i s = .next
      { s with ps2Step := 5, tx := some (0xFF ^^^ m), trace := s.trace ++ [.active], result := .none }

/-- 43_ps2.md R98: the step advances by one after every received byte, acknowledged or not, and saturates at 5, a header
counting from 0 (R91); so after any sequence of n bytes without a header it is min(step + n, 5). -/
def Obligations.StepSaturatesAtIdle : Prop :=
  ∀ (bytes : List Byte) (s : State), s.ps2En = true →
    let k := (afterAll (bytes.map .ps2Rx) s).ps2Step.val
    k = bytes.foldl (fun n b => min ((if b = 0x01 then 0 else n) + 1) 5) s.ps2Step.val ∧
    ((∀ b ∈ bytes, b ≠ 0x01) → k = min (s.ps2Step.val + bytes.length) 5)

/-- PS2_XCHG while enabled (43_ps2.md R88): the reply loaded before is shifted out, or a free byte if it is ⊥; the exchange
is recorded before the handler runs; the handler's effect is PS2_RX's. -/
def Obligations.ExchangeShiftsOutTheLoadedReply : Prop :=
  ∀ s b, s.ps2En = true →
    (∀ v, s.tx = some v → ∃ t, exec (.ps2Rx b) { s with trace := s.trace ++ [.xchg b v] } = .next t ∧
      exec (.ps2Xchg b) s = .next { t with result := .byte v }) ∧
    (s.tx = none → ∃ t,
      exec (.ps2Rx b) { s with trace := s.trace ++ [.xchg b (Config.freeByte s.draws)], draws := s.draws + 1 } = .next t ∧
      exec (.ps2Xchg b) s = .next { t with result := .byte (Config.freeByte s.draws) })

/-- 43_ps2.md R101: the complete poll. From any step and any defined tx, with W unchanged, the master receives the old tx,
ID1 ^ m, ID2 ^ m, W[7:0] ^ m, W[15:8] ^ m and 0xFF ^ m, with an ACK after each exchange but the last; the final state is
step 5 and tx = 0xFF ^ m, and nothing else has changed. With tx = ⊥ the first byte is free. -/
def Obligations.FullPollReplies : Prop :=
  ∀ s m w rest, s.fault = none → s.ps2En = true → s.mask = some m → s.outw = some w →
    s.pending = [0x01, 0x42, 0x00, 0x00, 0x00, 0x00].map (fun b => .agent (.bus b)) ++ rest →
    let first := s.tx.getD (Config.freeByte s.draws)
    steps 6 s = .next { s with
      pending := rest
      ps2Step := 5
      tx := some (0xFF ^^^ m)
      result := .byte (0xFF ^^^ m)
      draws := if s.tx = none then s.draws + 1 else s.draws
      trace := s.trace ++
        [.xchg 0x01 first, .active, .ack,
         .xchg 0x42 (s.inst.par.id1 ^^^ m), .active, .ack,
         .xchg 0x00 (s.inst.par.id2 ^^^ m), .active, .ack,
         .xchg 0x00 (w.extractLsb' 0 8 ^^^ m), .active, .ack,
         .xchg 0x00 (w.extractLsb' 8 8 ^^^ m), .active, .ack,
         .xchg 0x00 (0xFF ^^^ m), .active] }

/-- 70_reset_and_hazards.md R128: the atomic publish does not make one poll consistent. A CMP_PUBLISH between step 2 and
step 3 makes the master receive the low byte of the old word and the high byte of the new one. -/
def Obligations.PublishInsideAPollMixesBytes : Prop :=
  ∀ s m w f d0 d1 rest, s.fault = none → s.ps2En = true → s.mask = some m → s.ps2Step = 2 → s.outw = some w →
    s.frame = some f → s.d.e0 = some d0 → s.d.e1 = some d1 →
    s.pending = .agent (.bus 0x00) :: .word 0x21000000 :: .agent (.bus 0x00) :: .agent (.bus 0x00) :: rest →
    let w' := compose s.inst.par f d0 d1 (activeMap s.inst) (activeForce s.inst)
    ∃ t l, steps 4 s = .next t ∧ t.outw = some w' ∧
      t.trace = s.trace ++ l ++
        [.xchg 0x00 (w.extractLsb' 0 8 ^^^ m), .active, .ack, .xchg 0x00 (w'.extractLsb' 8 8 ^^^ m), .active, .ack]

/-- The two interrupt sources have no priority (60_exceptions.md R109), and the order is not seen: by what each reads and
writes (40_quadrature.md R70; 43_ps2.md R88, R89; 20_memory.md R45) either order of a TIMER_IRQ and an exchange leaves the
same state; the model's result field (log 8), which names the last operation's result, apart. -/
def Obligations.InterruptOrderIsNotObservable : Prop :=
  ∀ s s1 s0 b,
    { after (.ps2Xchg b) (after (.timerIrq s1 s0) s) with result := .none } =
      { after (.timerIrq s1 s0) (after (.ps2Xchg b) s) with result := .none }

/-! ### Fairness -/

/-- MAIN is weakly fair (70_reset_and_hazards.md R132): every run, whatever is asked for first and whatever is chosen
freely later, ends in a fault or has MAIN stepping again and again (R122); and once the requests are served and the wait
already drawn has passed, the next step is MAIN's (the wait is the model's field, log 17). Nothing is said of TIMER and BUS. -/
def Obligations.MainIsWeaklyFair : Prop :=
  ∀ s, (EndsInAFault s ∨ MainStepsForEver s) ∧
    (∀ n t, s.mainDue = some n → steps (s.pending.length + n) s = .next t → t.fault = none → takesMain t = true)
end

