-- ==== Sys2Proof/Laws/State.lean ====
section
/-! SUPPORT. One lemma per field and named update of Machine/Ops.lean, so that no proof unfolds a record update,
and the lemmas of a value per encoder slot. -/

namespace Sys2Proof

@[simp] theorem PerEnc.get_zero {α : Type} (p : PerEnc α) : p.get 0 = p.e0 := rfl
@[simp] theorem PerEnc.get_one {α : Type} (p : PerEnc α) : p.get 1 = p.e1 := rfl
@[simp] theorem PerEnc.set_zero {α : Type} (p : PerEnc α) (v : α) : p.set 0 v = ⟨v, p.e1⟩ := rfl
@[simp] theorem PerEnc.set_one {α : Type} (p : PerEnc α) (v : α) : p.set 1 v = ⟨p.e0, v⟩ := rfl

/-- A statement about both encoder ids is two statements. -/
theorem EncId.forall_iff {P : EncId → Prop} : (∀ i, P i) ↔ P 0 ∧ P 1 :=
  Fin.forall_fin_two

theorem EncId.eq_zero_or_one (i : EncId) : i = 0 ∨ i = 1 :=
  match i with
  | 0 => .inl rfl
  | 1 => .inr rfl

@[simp] theorem PerEnc.get_set_self {α : Type} (p : PerEnc α) (i : EncId) (v : α) : (p.set i v).get i = v := by
  obtain rfl | rfl := EncId.eq_zero_or_one i <;> rfl

theorem PerEnc.get_set_other {α : Type} (p : PerEnc α) {i j : EncId} (v : α) (h : j ≠ i) :
    (p.set i v).get j = p.get j := by
  obtain rfl | rfl := EncId.eq_zero_or_one i <;> obtain rfl | rfl := EncId.eq_zero_or_one j <;> simp_all

theorem PerEnc.get_set {α : Type} (p : PerEnc α) (i j : EncId) (v : α) :
    (p.set i v).get j = if j = i then v else p.get j := by
  by_cases h : j = i
  · subst h; simp
  · rw [PerEnc.get_set_other p v h, if_neg h]

@[simp] theorem PerEnc.set_get_self {α : Type} (p : PerEnc α) (i : EncId) : p.set i (p.get i) = p := by
  obtain rfl | rfl := EncId.eq_zero_or_one i <;> rfl

namespace Machine

@[simp] theorem emit_inst (e : Event) (s : State) : (emit e s).inst = s.inst := rfl
@[simp] theorem emit_tmrEn (e : Event) (s : State) : (emit e s).tmrEn = s.tmrEn := rfl
@[simp] theorem emit_tmrRate (e : Event) (s : State) : (emit e s).tmrRate = s.tmrRate := rfl
@[simp] theorem emit_enc (e : Event) (s : State) : (emit e s).enc = s.enc := rfl
@[simp] theorem emit_pinmode (e : Event) (s : State) : (emit e s).pinmode = s.pinmode := rfl
@[simp] theorem emit_frame (e : Event) (s : State) : (emit e s).frame = s.frame := rfl
@[simp] theorem emit_d (e : Event) (s : State) : (emit e s).d = s.d := rfl
@[simp] theorem emit_mphase (e : Event) (s : State) : (emit e s).mphase = s.mphase := rfl
@[simp] theorem emit_outw (e : Event) (s : State) : (emit e s).outw = s.outw := rfl
@[simp] theorem emit_ps2En (e : Event) (s : State) : (emit e s).ps2En = s.ps2En := rfl
@[simp] theorem emit_mask (e : Event) (s : State) : (emit e s).mask = s.mask := rfl
@[simp] theorem emit_ps2Step (e : Event) (s : State) : (emit e s).ps2Step = s.ps2Step := rfl
@[simp] theorem emit_tx (e : Event) (s : State) : (emit e s).tx = s.tx := rfl
@[simp] theorem emit_fault (e : Event) (s : State) : (emit e s).fault = s.fault := rfl
@[simp] theorem emit_trace (e : Event) (s : State) : (emit e s).trace = s.trace ++ [e] := rfl
@[simp] theorem emit_result (e : Event) (s : State) : (emit e s).result = s.result := rfl
@[simp] theorem emit_pending (e : Event) (s : State) : (emit e s).pending = s.pending := rfl
@[simp] theorem emit_draws (e : Event) (s : State) : (emit e s).draws = s.draws := rfl
@[simp] theorem emit_mainDue (e : Event) (s : State) : (emit e s).mainDue = s.mainDue := rfl

@[simp] theorem returning_inst (r : OpResult) (s : State) : (returning r s).inst = s.inst := rfl
@[simp] theorem returning_tmrEn (r : OpResult) (s : State) : (returning r s).tmrEn = s.tmrEn := rfl
@[simp] theorem returning_tmrRate (r : OpResult) (s : State) : (returning r s).tmrRate = s.tmrRate := rfl
@[simp] theorem returning_enc (r : OpResult) (s : State) : (returning r s).enc = s.enc := rfl
@[simp] theorem returning_pinmode (r : OpResult) (s : State) : (returning r s).pinmode = s.pinmode := rfl
@[simp] theorem returning_frame (r : OpResult) (s : State) : (returning r s).frame = s.frame := rfl
@[simp] theorem returning_d (r : OpResult) (s : State) : (returning r s).d = s.d := rfl
@[simp] theorem returning_mphase (r : OpResult) (s : State) : (returning r s).mphase = s.mphase := rfl
@[simp] theorem returning_outw (r : OpResult) (s : State) : (returning r s).outw = s.outw := rfl
@[simp] theorem returning_ps2En (r : OpResult) (s : State) : (returning r s).ps2En = s.ps2En := rfl
@[simp] theorem returning_mask (r : OpResult) (s : State) : (returning r s).mask = s.mask := rfl
@[simp] theorem returning_ps2Step (r : OpResult) (s : State) : (returning r s).ps2Step = s.ps2Step := rfl
@[simp] theorem returning_tx (r : OpResult) (s : State) : (returning r s).tx = s.tx := rfl
@[simp] theorem returning_fault (r : OpResult) (s : State) : (returning r s).fault = s.fault := rfl
@[simp] theorem returning_trace (r : OpResult) (s : State) : (returning r s).trace = s.trace := rfl
@[simp] theorem returning_result (r : OpResult) (s : State) : (returning r s).result = r := rfl
@[simp] theorem returning_pending (r : OpResult) (s : State) : (returning r s).pending = s.pending := rfl
@[simp] theorem returning_draws (r : OpResult) (s : State) : (returning r s).draws = s.draws := rfl
@[simp] theorem returning_mainDue (r : OpResult) (s : State) : (returning r s).mainDue = s.mainDue := rfl

@[simp] theorem raise_inst (c : FaultCause) (s : State) : (raise c s).inst = s.inst := rfl
@[simp] theorem raise_tmrEn (c : FaultCause) (s : State) : (raise c s).tmrEn = s.tmrEn := rfl
@[simp] theorem raise_tmrRate (c : FaultCause) (s : State) : (raise c s).tmrRate = s.tmrRate := rfl
@[simp] theorem raise_enc (c : FaultCause) (s : State) : (raise c s).enc = s.enc := rfl
@[simp] theorem raise_pinmode (c : FaultCause) (s : State) : (raise c s).pinmode = s.pinmode := rfl
@[simp] theorem raise_frame (c : FaultCause) (s : State) : (raise c s).frame = s.frame := rfl
@[simp] theorem raise_d (c : FaultCause) (s : State) : (raise c s).d = s.d := rfl
@[simp] theorem raise_mphase (c : FaultCause) (s : State) : (raise c s).mphase = s.mphase := rfl
@[simp] theorem raise_outw (c : FaultCause) (s : State) : (raise c s).outw = s.outw := rfl
@[simp] theorem raise_ps2En (c : FaultCause) (s : State) : (raise c s).ps2En = s.ps2En := rfl
@[simp] theorem raise_mask (c : FaultCause) (s : State) : (raise c s).mask = s.mask := rfl
@[simp] theorem raise_ps2Step (c : FaultCause) (s : State) : (raise c s).ps2Step = s.ps2Step := rfl
@[simp] theorem raise_tx (c : FaultCause) (s : State) : (raise c s).tx = s.tx := rfl
@[simp] theorem raise_fault_none (c : FaultCause) {s : State} (h : s.fault = none) :
    (raise c s).fault = some c.code := by simp [raise, h]
@[simp] theorem raise_fault_some (c : FaultCause) {s : State} {k : FaultCode} (h : s.fault = some k) :
    (raise c s).fault = some k := by simp [raise, h]
@[simp] theorem raise_trace (c : FaultCause) (s : State) : (raise c s).trace = s.trace ++ [.fault c] := rfl
@[simp] theorem raise_result (c : FaultCause) (s : State) : (raise c s).result = .none := rfl
@[simp] theorem raise_pending (c : FaultCause) (s : State) : (raise c s).pending = s.pending := rfl
@[simp] theorem raise_draws (c : FaultCause) (s : State) : (raise c s).draws = s.draws := rfl
@[simp] theorem raise_mainDue (c : FaultCause) (s : State) : (raise c s).mainDue = s.mainDue := rfl

@[simp] theorem setTimer_inst (r : TickRate) (s : State) : (setTimer r s).inst = s.inst := rfl
@[simp] theorem setTimer_tmrEn (r : TickRate) (s : State) : (setTimer r s).tmrEn = true := rfl
@[simp] theorem setTimer_tmrRate (r : TickRate) (s : State) : (setTimer r s).tmrRate = some r := rfl
@[simp] theorem setTimer_enc (r : TickRate) (s : State) : (setTimer r s).enc = s.enc := rfl
@[simp] theorem setTimer_pinmode (r : TickRate) (s : State) : (setTimer r s).pinmode = s.pinmode := rfl
@[simp] theorem setTimer_frame (r : TickRate) (s : State) : (setTimer r s).frame = s.frame := rfl
@[simp] theorem setTimer_d (r : TickRate) (s : State) : (setTimer r s).d = s.d := rfl
@[simp] theorem setTimer_mphase (r : TickRate) (s : State) : (setTimer r s).mphase = s.mphase := rfl
@[simp] theorem setTimer_outw (r : TickRate) (s : State) : (setTimer r s).outw = s.outw := rfl
@[simp] theorem setTimer_ps2En (r : TickRate) (s : State) : (setTimer r s).ps2En = s.ps2En := rfl
@[simp] theorem setTimer_mask (r : TickRate) (s : State) : (setTimer r s).mask = s.mask := rfl
@[simp] theorem setTimer_ps2Step (r : TickRate) (s : State) : (setTimer r s).ps2Step = s.ps2Step := rfl
@[simp] theorem setTimer_tx (r : TickRate) (s : State) : (setTimer r s).tx = s.tx := rfl
@[simp] theorem setTimer_fault (r : TickRate) (s : State) : (setTimer r s).fault = s.fault := rfl
@[simp] theorem setTimer_trace (r : TickRate) (s : State) : (setTimer r s).trace = s.trace := rfl
@[simp] theorem setTimer_result (r : TickRate) (s : State) : (setTimer r s).result = s.result := rfl
@[simp] theorem setTimer_pending (r : TickRate) (s : State) : (setTimer r s).pending = s.pending := rfl
@[simp] theorem setTimer_draws (r : TickRate) (s : State) : (setTimer r s).draws = s.draws := rfl
@[simp] theorem setTimer_mainDue (r : TickRate) (s : State) : (setTimer r s).mainDue = s.mainDue := rfl

@[simp] theorem setSlot_inst (i : EncId) (x : EncSlot) (s : State) : (setSlot i x s).inst = s.inst := rfl
@[simp] theorem setSlot_tmrEn (i : EncId) (x : EncSlot) (s : State) : (setSlot i x s).tmrEn = s.tmrEn := rfl
@[simp] theorem setSlot_tmrRate (i : EncId) (x : EncSlot) (s : State) : (setSlot i x s).tmrRate = s.tmrRate := rfl
@[simp] theorem setSlot_enc (i : EncId) (x : EncSlot) (s : State) : (setSlot i x s).enc = s.enc.set i x := rfl
@[simp] theorem setSlot_pinmode (i : EncId) (x : EncSlot) (s : State) : (setSlot i x s).pinmode = s.pinmode := rfl
@[simp] theorem setSlot_frame (i : EncId) (x : EncSlot) (s : State) : (setSlot i x s).frame = s.frame := rfl
@[simp] theorem setSlot_d (i : EncId) (x : EncSlot) (s : State) : (setSlot i x s).d = s.d := rfl
@[simp] theorem setSlot_mphase (i : EncId) (x : EncSlot) (s : State) : (setSlot i x s).mphase = s.mphase := rfl
@[simp] theorem setSlot_outw (i : EncId) (x : EncSlot) (s : State) : (setSlot i x s).outw = s.outw := rfl
@[simp] theorem setSlot_ps2En (i : EncId) (x : EncSlot) (s : State) : (setSlot i x s).ps2En = s.ps2En := rfl
@[simp] theorem setSlot_mask (i : EncId) (x : EncSlot) (s : State) : (setSlot i x s).mask = s.mask := rfl
@[simp] theorem setSlot_ps2Step (i : EncId) (x : EncSlot) (s : State) : (setSlot i x s).ps2Step = s.ps2Step := rfl
@[simp] theorem setSlot_tx (i : EncId) (x : EncSlot) (s : State) : (setSlot i x s).tx = s.tx := rfl
@[simp] theorem setSlot_fault (i : EncId) (x : EncSlot) (s : State) : (setSlot i x s).fault = s.fault := rfl
@[simp] theorem setSlot_trace (i : EncId) (x : EncSlot) (s : State) : (setSlot i x s).trace = s.trace := rfl
@[simp] theorem setSlot_result (i : EncId) (x : EncSlot) (s : State) : (setSlot i x s).result = s.result := rfl
@[simp] theorem setSlot_pending (i : EncId) (x : EncSlot) (s : State) : (setSlot i x s).pending = s.pending := rfl
@[simp] theorem setSlot_draws (i : EncId) (x : EncSlot) (s : State) : (setSlot i x s).draws = s.draws := rfl
@[simp] theorem setSlot_mainDue (i : EncId) (x : EncSlot) (s : State) : (setSlot i x s).mainDue = s.mainDue := rfl

@[simp] theorem setPinmode_inst (m : PinMode) (s : State) : (setPinmode m s).inst = s.inst := rfl
@[simp] theorem setPinmode_tmrEn (m : PinMode) (s : State) : (setPinmode m s).tmrEn = s.tmrEn := rfl
@[simp] theorem setPinmode_tmrRate (m : PinMode) (s : State) : (setPinmode m s).tmrRate = s.tmrRate := rfl
@[simp] theorem setPinmode_enc (m : PinMode) (s : State) : (setPinmode m s).enc = s.enc := rfl
@[simp] theorem setPinmode_pinmode (m : PinMode) (s : State) : (setPinmode m s).pinmode = m := rfl
@[simp] theorem setPinmode_frame (m : PinMode) (s : State) : (setPinmode m s).frame = s.frame := rfl
@[simp] theorem setPinmode_d (m : PinMode) (s : State) : (setPinmode m s).d = s.d := rfl
@[simp] theorem setPinmode_mphase (m : PinMode) (s : State) : (setPinmode m s).mphase = s.mphase := rfl
@[simp] theorem setPinmode_outw (m : PinMode) (s : State) : (setPinmode m s).outw = s.outw := rfl
@[simp] theorem setPinmode_ps2En (m : PinMode) (s : State) : (setPinmode m s).ps2En = s.ps2En := rfl
@[simp] theorem setPinmode_mask (m : PinMode) (s : State) : (setPinmode m s).mask = s.mask := rfl
@[simp] theorem setPinmode_ps2Step (m : PinMode) (s : State) : (setPinmode m s).ps2Step = s.ps2Step := rfl
@[simp] theorem setPinmode_tx (m : PinMode) (s : State) : (setPinmode m s).tx = s.tx := rfl
@[simp] theorem setPinmode_fault (m : PinMode) (s : State) : (setPinmode m s).fault = s.fault := rfl
@[simp] theorem setPinmode_trace (m : PinMode) (s : State) : (setPinmode m s).trace = s.trace := rfl
@[simp] theorem setPinmode_result (m : PinMode) (s : State) : (setPinmode m s).result = s.result := rfl
@[simp] theorem setPinmode_pending (m : PinMode) (s : State) : (setPinmode m s).pending = s.pending := rfl
@[simp] theorem setPinmode_draws (m : PinMode) (s : State) : (setPinmode m s).draws = s.draws := rfl
@[simp] theorem setPinmode_mainDue (m : PinMode) (s : State) : (setPinmode m s).mainDue = s.mainDue := rfl

@[simp] theorem setFrame_inst (f : Frame) (s : State) : (setFrame f s).inst = s.inst := rfl
@[simp] theorem setFrame_tmrEn (f : Frame) (s : State) : (setFrame f s).tmrEn = s.tmrEn := rfl
@[simp] theorem setFrame_tmrRate (f : Frame) (s : State) : (setFrame f s).tmrRate = s.tmrRate := rfl
@[simp] theorem setFrame_enc (f : Frame) (s : State) : (setFrame f s).enc = s.enc := rfl
@[simp] theorem setFrame_pinmode (f : Frame) (s : State) : (setFrame f s).pinmode = s.pinmode := rfl
@[simp] theorem setFrame_frame (f : Frame) (s : State) : (setFrame f s).frame = some f := rfl
@[simp] theorem setFrame_d (f : Frame) (s : State) : (setFrame f s).d = s.d := rfl
@[simp] theorem setFrame_mphase (f : Frame) (s : State) : (setFrame f s).mphase = s.mphase := rfl
@[simp] theorem setFrame_outw (f : Frame) (s : State) : (setFrame f s).outw = s.outw := rfl
@[simp] theorem setFrame_ps2En (f : Frame) (s : State) : (setFrame f s).ps2En = s.ps2En := rfl
@[simp] theorem setFrame_mask (f : Frame) (s : State) : (setFrame f s).mask = s.mask := rfl
@[simp] theorem setFrame_ps2Step (f : Frame) (s : State) : (setFrame f s).ps2Step = s.ps2Step := rfl
@[simp] theorem setFrame_tx (f : Frame) (s : State) : (setFrame f s).tx = s.tx := rfl
@[simp] theorem setFrame_fault (f : Frame) (s : State) : (setFrame f s).fault = s.fault := rfl
@[simp] theorem setFrame_trace (f : Frame) (s : State) : (setFrame f s).trace = s.trace := rfl
@[simp] theorem setFrame_result (f : Frame) (s : State) : (setFrame f s).result = s.result := rfl
@[simp] theorem setFrame_pending (f : Frame) (s : State) : (setFrame f s).pending = s.pending := rfl
@[simp] theorem setFrame_draws (f : Frame) (s : State) : (setFrame f s).draws = s.draws := rfl
@[simp] theorem setFrame_mainDue (f : Frame) (s : State) : (setFrame f s).mainDue = s.mainDue := rfl

@[simp] theorem setLatch_inst (i : EncId) (v : Dir) (s : State) : (setLatch i v s).inst = s.inst := rfl
@[simp] theorem setLatch_tmrEn (i : EncId) (v : Dir) (s : State) : (setLatch i v s).tmrEn = s.tmrEn := rfl
@[simp] theorem setLatch_tmrRate (i : EncId) (v : Dir) (s : State) : (setLatch i v s).tmrRate = s.tmrRate := rfl
@[simp] theorem setLatch_enc (i : EncId) (v : Dir) (s : State) : (setLatch i v s).enc = s.enc := rfl
@[simp] theorem setLatch_pinmode (i : EncId) (v : Dir) (s : State) : (setLatch i v s).pinmode = s.pinmode := rfl
@[simp] theorem setLatch_frame (i : EncId) (v : Dir) (s : State) : (setLatch i v s).frame = s.frame := rfl
@[simp] theorem setLatch_d (i : EncId) (v : Dir) (s : State) : (setLatch i v s).d = s.d.set i (some v) := rfl
@[simp] theorem setLatch_mphase (i : EncId) (v : Dir) (s : State) : (setLatch i v s).mphase = s.mphase := rfl
@[simp] theorem setLatch_outw (i : EncId) (v : Dir) (s : State) : (setLatch i v s).outw = s.outw := rfl
@[simp] theorem setLatch_ps2En (i : EncId) (v : Dir) (s : State) : (setLatch i v s).ps2En = s.ps2En := rfl
@[simp] theorem setLatch_mask (i : EncId) (v : Dir) (s : State) : (setLatch i v s).mask = s.mask := rfl
@[simp] theorem setLatch_ps2Step (i : EncId) (v : Dir) (s : State) : (setLatch i v s).ps2Step = s.ps2Step := rfl
@[simp] theorem setLatch_tx (i : EncId) (v : Dir) (s : State) : (setLatch i v s).tx = s.tx := rfl
@[simp] theorem setLatch_fault (i : EncId) (v : Dir) (s : State) : (setLatch i v s).fault = s.fault := rfl
@[simp] theorem setLatch_trace (i : EncId) (v : Dir) (s : State) : (setLatch i v s).trace = s.trace := rfl
@[simp] theorem setLatch_result (i : EncId) (v : Dir) (s : State) : (setLatch i v s).result = s.result := rfl
@[simp] theorem setLatch_pending (i : EncId) (v : Dir) (s : State) : (setLatch i v s).pending = s.pending := rfl
@[simp] theorem setLatch_draws (i : EncId) (v : Dir) (s : State) : (setLatch i v s).draws = s.draws := rfl
@[simp] theorem setLatch_mainDue (i : EncId) (v : Dir) (s : State) : (setLatch i v s).mainDue = s.mainDue := rfl

@[simp] theorem setOutw_inst (w : OutWord) (s : State) : (setOutw w s).inst = s.inst := rfl
@[simp] theorem setOutw_tmrEn (w : OutWord) (s : State) : (setOutw w s).tmrEn = s.tmrEn := rfl
@[simp] theorem setOutw_tmrRate (w : OutWord) (s : State) : (setOutw w s).tmrRate = s.tmrRate := rfl
@[simp] theorem setOutw_enc (w : OutWord) (s : State) : (setOutw w s).enc = s.enc := rfl
@[simp] theorem setOutw_pinmode (w : OutWord) (s : State) : (setOutw w s).pinmode = s.pinmode := rfl
@[simp] theorem setOutw_frame (w : OutWord) (s : State) : (setOutw w s).frame = s.frame := rfl
@[simp] theorem setOutw_d (w : OutWord) (s : State) : (setOutw w s).d = s.d := rfl
@[simp] theorem setOutw_mphase (w : OutWord) (s : State) : (setOutw w s).mphase = s.mphase := rfl
@[simp] theorem setOutw_outw (w : OutWord) (s : State) : (setOutw w s).outw = some w := rfl
@[simp] theorem setOutw_ps2En (w : OutWord) (s : State) : (setOutw w s).ps2En = s.ps2En := rfl
@[simp] theorem setOutw_mask (w : OutWord) (s : State) : (setOutw w s).mask = s.mask := rfl
@[simp] theorem setOutw_ps2Step (w : OutWord) (s : State) : (setOutw w s).ps2Step = s.ps2Step := rfl
@[simp] theorem setOutw_tx (w : OutWord) (s : State) : (setOutw w s).tx = s.tx := rfl
@[simp] theorem setOutw_fault (w : OutWord) (s : State) : (setOutw w s).fault = s.fault := rfl
@[simp] theorem setOutw_trace (w : OutWord) (s : State) : (setOutw w s).trace = s.trace := rfl
@[simp] theorem setOutw_result (w : OutWord) (s : State) : (setOutw w s).result = s.result := rfl
@[simp] theorem setOutw_pending (w : OutWord) (s : State) : (setOutw w s).pending = s.pending := rfl
@[simp] theorem setOutw_draws (w : OutWord) (s : State) : (setOutw w s).draws = s.draws := rfl
@[simp] theorem setOutw_mainDue (w : OutWord) (s : State) : (setOutw w s).mainDue = s.mainDue := rfl

@[simp] theorem setSession_inst (m : Byte) (en : Bool) (s : State) : (setSession m en s).inst = s.inst := rfl
@[simp] theorem setSession_tmrEn (m : Byte) (en : Bool) (s : State) : (setSession m en s).tmrEn = s.tmrEn := rfl
@[simp] theorem setSession_tmrRate (m : Byte) (en : Bool) (s : State) : (setSession m en s).tmrRate = s.tmrRate := rfl
@[simp] theorem setSession_enc (m : Byte) (en : Bool) (s : State) : (setSession m en s).enc = s.enc := rfl
@[simp] theorem setSession_pinmode (m : Byte) (en : Bool) (s : State) : (setSession m en s).pinmode = s.pinmode := rfl
@[simp] theorem setSession_frame (m : Byte) (en : Bool) (s : State) : (setSession m en s).frame = s.frame := rfl
@[simp] theorem setSession_d (m : Byte) (en : Bool) (s : State) : (setSession m en s).d = s.d := rfl
@[simp] theorem setSession_mphase (m : Byte) (en : Bool) (s : State) : (setSession m en s).mphase = s.mphase := rfl
@[simp] theorem setSession_outw (m : Byte) (en : Bool) (s : State) : (setSession m en s).outw = s.outw := rfl
@[simp] theorem setSession_ps2En (m : Byte) (en : Bool) (s : State) : (setSession m en s).ps2En = en := rfl
@[simp] theorem setSession_mask (m : Byte) (en : Bool) (s : State) : (setSession m en s).mask = some m := rfl
@[simp] theorem setSession_ps2Step (m : Byte) (en : Bool) (s : State) : (setSession m en s).ps2Step = 0 := rfl
@[simp] theorem setSession_tx (m : Byte) (en : Bool) (s : State) : (setSession m en s).tx = s.tx := rfl
@[simp] theorem setSession_fault (m : Byte) (en : Bool) (s : State) : (setSession m en s).fault = s.fault := rfl
@[simp] theorem setSession_trace (m : Byte) (en : Bool) (s : State) : (setSession m en s).trace = s.trace := rfl
@[simp] theorem setSession_result (m : Byte) (en : Bool) (s : State) : (setSession m en s).result = s.result := rfl
@[simp] theorem setSession_pending (m : Byte) (en : Bool) (s : State) : (setSession m en s).pending = s.pending := rfl
@[simp] theorem setSession_draws (m : Byte) (en : Bool) (s : State) : (setSession m en s).draws = s.draws := rfl
@[simp] theorem setSession_mainDue (m : Byte) (en : Bool) (s : State) : (setSession m en s).mainDue = s.mainDue := rfl

@[simp] theorem setTx_inst (v : Option Byte) (s : State) : (setTx v s).inst = s.inst := rfl
@[simp] theorem setTx_tmrEn (v : Option Byte) (s : State) : (setTx v s).tmrEn = s.tmrEn := rfl
@[simp] theorem setTx_tmrRate (v : Option Byte) (s : State) : (setTx v s).tmrRate = s.tmrRate := rfl
@[simp] theorem setTx_enc (v : Option Byte) (s : State) : (setTx v s).enc = s.enc := rfl
@[simp] theorem setTx_pinmode (v : Option Byte) (s : State) : (setTx v s).pinmode = s.pinmode := rfl
@[simp] theorem setTx_frame (v : Option Byte) (s : State) : (setTx v s).frame = s.frame := rfl
@[simp] theorem setTx_d (v : Option Byte) (s : State) : (setTx v s).d = s.d := rfl
@[simp] theorem setTx_mphase (v : Option Byte) (s : State) : (setTx v s).mphase = s.mphase := rfl
@[simp] theorem setTx_outw (v : Option Byte) (s : State) : (setTx v s).outw = s.outw := rfl
@[simp] theorem setTx_ps2En (v : Option Byte) (s : State) : (setTx v s).ps2En = s.ps2En := rfl
@[simp] theorem setTx_mask (v : Option Byte) (s : State) : (setTx v s).mask = s.mask := rfl
@[simp] theorem setTx_ps2Step (v : Option Byte) (s : State) : (setTx v s).ps2Step = s.ps2Step := rfl
@[simp] theorem setTx_tx (v : Option Byte) (s : State) : (setTx v s).tx = v := rfl
@[simp] theorem setTx_fault (v : Option Byte) (s : State) : (setTx v s).fault = s.fault := rfl
@[simp] theorem setTx_trace (v : Option Byte) (s : State) : (setTx v s).trace = s.trace := rfl
@[simp] theorem setTx_result (v : Option Byte) (s : State) : (setTx v s).result = s.result := rfl
@[simp] theorem setTx_pending (v : Option Byte) (s : State) : (setTx v s).pending = s.pending := rfl
@[simp] theorem setTx_draws (v : Option Byte) (s : State) : (setTx v s).draws = s.draws := rfl
@[simp] theorem setTx_mainDue (v : Option Byte) (s : State) : (setTx v s).mainDue = s.mainDue := rfl

@[simp] theorem setPs2Step_inst (k : Fin 6) (s : State) : (setPs2Step k s).inst = s.inst := rfl
@[simp] theorem setPs2Step_tmrEn (k : Fin 6) (s : State) : (setPs2Step k s).tmrEn = s.tmrEn := rfl
@[simp] theorem setPs2Step_tmrRate (k : Fin 6) (s : State) : (setPs2Step k s).tmrRate = s.tmrRate := rfl
@[simp] theorem setPs2Step_enc (k : Fin 6) (s : State) : (setPs2Step k s).enc = s.enc := rfl
@[simp] theorem setPs2Step_pinmode (k : Fin 6) (s : State) : (setPs2Step k s).pinmode = s.pinmode := rfl
@[simp] theorem setPs2Step_frame (k : Fin 6) (s : State) : (setPs2Step k s).frame = s.frame := rfl
@[simp] theorem setPs2Step_d (k : Fin 6) (s : State) : (setPs2Step k s).d = s.d := rfl
@[simp] theorem setPs2Step_mphase (k : Fin 6) (s : State) : (setPs2Step k s).mphase = s.mphase := rfl
@[simp] theorem setPs2Step_outw (k : Fin 6) (s : State) : (setPs2Step k s).outw = s.outw := rfl
@[simp] theorem setPs2Step_ps2En (k : Fin 6) (s : State) : (setPs2Step k s).ps2En = s.ps2En := rfl
@[simp] theorem setPs2Step_mask (k : Fin 6) (s : State) : (setPs2Step k s).mask = s.mask := rfl
@[simp] theorem setPs2Step_ps2Step (k : Fin 6) (s : State) : (setPs2Step k s).ps2Step = k := rfl
@[simp] theorem setPs2Step_tx (k : Fin 6) (s : State) : (setPs2Step k s).tx = s.tx := rfl
@[simp] theorem setPs2Step_fault (k : Fin 6) (s : State) : (setPs2Step k s).fault = s.fault := rfl
@[simp] theorem setPs2Step_trace (k : Fin 6) (s : State) : (setPs2Step k s).trace = s.trace := rfl
@[simp] theorem setPs2Step_result (k : Fin 6) (s : State) : (setPs2Step k s).result = s.result := rfl
@[simp] theorem setPs2Step_pending (k : Fin 6) (s : State) : (setPs2Step k s).pending = s.pending := rfl
@[simp] theorem setPs2Step_draws (k : Fin 6) (s : State) : (setPs2Step k s).draws = s.draws := rfl
@[simp] theorem setPs2Step_mainDue (k : Fin 6) (s : State) : (setPs2Step k s).mainDue = s.mainDue := rfl

@[simp] theorem setPhase_inst (p : MPhase) (s : State) : (setPhase p s).inst = s.inst := rfl
@[simp] theorem setPhase_tmrEn (p : MPhase) (s : State) : (setPhase p s).tmrEn = s.tmrEn := rfl
@[simp] theorem setPhase_tmrRate (p : MPhase) (s : State) : (setPhase p s).tmrRate = s.tmrRate := rfl
@[simp] theorem setPhase_enc (p : MPhase) (s : State) : (setPhase p s).enc = s.enc := rfl
@[simp] theorem setPhase_pinmode (p : MPhase) (s : State) : (setPhase p s).pinmode = s.pinmode := rfl
@[simp] theorem setPhase_frame (p : MPhase) (s : State) : (setPhase p s).frame = s.frame := rfl
@[simp] theorem setPhase_d (p : MPhase) (s : State) : (setPhase p s).d = s.d := rfl
@[simp] theorem setPhase_mphase (p : MPhase) (s : State) : (setPhase p s).mphase = p := rfl
@[simp] theorem setPhase_outw (p : MPhase) (s : State) : (setPhase p s).outw = s.outw := rfl
@[simp] theorem setPhase_ps2En (p : MPhase) (s : State) : (setPhase p s).ps2En = s.ps2En := rfl
@[simp] theorem setPhase_mask (p : MPhase) (s : State) : (setPhase p s).mask = s.mask := rfl
@[simp] theorem setPhase_ps2Step (p : MPhase) (s : State) : (setPhase p s).ps2Step = s.ps2Step := rfl
@[simp] theorem setPhase_tx (p : MPhase) (s : State) : (setPhase p s).tx = s.tx := rfl
@[simp] theorem setPhase_fault (p : MPhase) (s : State) : (setPhase p s).fault = s.fault := rfl
@[simp] theorem setPhase_trace (p : MPhase) (s : State) : (setPhase p s).trace = s.trace := rfl
@[simp] theorem setPhase_result (p : MPhase) (s : State) : (setPhase p s).result = s.result := rfl
@[simp] theorem setPhase_pending (p : MPhase) (s : State) : (setPhase p s).pending = s.pending := rfl
@[simp] theorem setPhase_draws (p : MPhase) (s : State) : (setPhase p s).draws = s.draws := rfl
@[simp] theorem setPhase_mainDue (p : MPhase) (s : State) : (setPhase p s).mainDue = s.mainDue := rfl

@[simp] theorem setPending_inst (l : List Request) (s : State) : (setPending l s).inst = s.inst := rfl
@[simp] theorem setPending_tmrEn (l : List Request) (s : State) : (setPending l s).tmrEn = s.tmrEn := rfl
@[simp] theorem setPending_tmrRate (l : List Request) (s : State) : (setPending l s).tmrRate = s.tmrRate := rfl
@[simp] theorem setPending_enc (l : List Request) (s : State) : (setPending l s).enc = s.enc := rfl
@[simp] theorem setPending_pinmode (l : List Request) (s : State) : (setPending l s).pinmode = s.pinmode := rfl
@[simp] theorem setPending_frame (l : List Request) (s : State) : (setPending l s).frame = s.frame := rfl
@[simp] theorem setPending_d (l : List Request) (s : State) : (setPending l s).d = s.d := rfl
@[simp] theorem setPending_mphase (l : List Request) (s : State) : (setPending l s).mphase = s.mphase := rfl
@[simp] theorem setPending_outw (l : List Request) (s : State) : (setPending l s).outw = s.outw := rfl
@[simp] theorem setPending_ps2En (l : List Request) (s : State) : (setPending l s).ps2En = s.ps2En := rfl
@[simp] theorem setPending_mask (l : List Request) (s : State) : (setPending l s).mask = s.mask := rfl
@[simp] theorem setPending_ps2Step (l : List Request) (s : State) : (setPending l s).ps2Step = s.ps2Step := rfl
@[simp] theorem setPending_tx (l : List Request) (s : State) : (setPending l s).tx = s.tx := rfl
@[simp] theorem setPending_fault (l : List Request) (s : State) : (setPending l s).fault = s.fault := rfl
@[simp] theorem setPending_trace (l : List Request) (s : State) : (setPending l s).trace = s.trace := rfl
@[simp] theorem setPending_result (l : List Request) (s : State) : (setPending l s).result = s.result := rfl
@[simp] theorem setPending_pending (l : List Request) (s : State) : (setPending l s).pending = l := rfl
@[simp] theorem setPending_draws (l : List Request) (s : State) : (setPending l s).draws = s.draws := rfl
@[simp] theorem setPending_mainDue (l : List Request) (s : State) : (setPending l s).mainDue = s.mainDue := rfl

@[simp] theorem setMainDue_inst (k : Option Nat) (s : State) : (setMainDue k s).inst = s.inst := rfl
@[simp] theorem setMainDue_tmrEn (k : Option Nat) (s : State) : (setMainDue k s).tmrEn = s.tmrEn := rfl
@[simp] theorem setMainDue_tmrRate (k : Option Nat) (s : State) : (setMainDue k s).tmrRate = s.tmrRate := rfl
@[simp] theorem setMainDue_enc (k : Option Nat) (s : State) : (setMainDue k s).enc = s.enc := rfl
@[simp] theorem setMainDue_pinmode (k : Option Nat) (s : State) : (setMainDue k s).pinmode = s.pinmode := rfl
@[simp] theorem setMainDue_frame (k : Option Nat) (s : State) : (setMainDue k s).frame = s.frame := rfl
@[simp] theorem setMainDue_d (k : Option Nat) (s : State) : (setMainDue k s).d = s.d := rfl
@[simp] theorem setMainDue_mphase (k : Option Nat) (s : State) : (setMainDue k s).mphase = s.mphase := rfl
@[simp] theorem setMainDue_outw (k : Option Nat) (s : State) : (setMainDue k s).outw = s.outw := rfl
@[simp] theorem setMainDue_ps2En (k : Option Nat) (s : State) : (setMainDue k s).ps2En = s.ps2En := rfl
@[simp] theorem setMainDue_mask (k : Option Nat) (s : State) : (setMainDue k s).mask = s.mask := rfl
@[simp] theorem setMainDue_ps2Step (k : Option Nat) (s : State) : (setMainDue k s).ps2Step = s.ps2Step := rfl
@[simp] theorem setMainDue_tx (k : Option Nat) (s : State) : (setMainDue k s).tx = s.tx := rfl
@[simp] theorem setMainDue_fault (k : Option Nat) (s : State) : (setMainDue k s).fault = s.fault := rfl
@[simp] theorem setMainDue_trace (k : Option Nat) (s : State) : (setMainDue k s).trace = s.trace := rfl
@[simp] theorem setMainDue_result (k : Option Nat) (s : State) : (setMainDue k s).result = s.result := rfl
@[simp] theorem setMainDue_pending (k : Option Nat) (s : State) : (setMainDue k s).pending = s.pending := rfl
@[simp] theorem setMainDue_draws (k : Option Nat) (s : State) : (setMainDue k s).draws = s.draws := rfl
@[simp] theorem setMainDue_mainDue (k : Option Nat) (s : State) : (setMainDue k s).mainDue = k := rfl

@[simp] theorem countDraw_inst (s : State) : (countDraw s).inst = s.inst := rfl
@[simp] theorem countDraw_tmrEn (s : State) : (countDraw s).tmrEn = s.tmrEn := rfl
@[simp] theorem countDraw_tmrRate (s : State) : (countDraw s).tmrRate = s.tmrRate := rfl
@[simp] theorem countDraw_enc (s : State) : (countDraw s).enc = s.enc := rfl
@[simp] theorem countDraw_pinmode (s : State) : (countDraw s).pinmode = s.pinmode := rfl
@[simp] theorem countDraw_frame (s : State) : (countDraw s).frame = s.frame := rfl
@[simp] theorem countDraw_d (s : State) : (countDraw s).d = s.d := rfl
@[simp] theorem countDraw_mphase (s : State) : (countDraw s).mphase = s.mphase := rfl
@[simp] theorem countDraw_outw (s : State) : (countDraw s).outw = s.outw := rfl
@[simp] theorem countDraw_ps2En (s : State) : (countDraw s).ps2En = s.ps2En := rfl
@[simp] theorem countDraw_mask (s : State) : (countDraw s).mask = s.mask := rfl
@[simp] theorem countDraw_ps2Step (s : State) : (countDraw s).ps2Step = s.ps2Step := rfl
@[simp] theorem countDraw_tx (s : State) : (countDraw s).tx = s.tx := rfl
@[simp] theorem countDraw_fault (s : State) : (countDraw s).fault = s.fault := rfl
@[simp] theorem countDraw_trace (s : State) : (countDraw s).trace = s.trace := rfl
@[simp] theorem countDraw_result (s : State) : (countDraw s).result = s.result := rfl
@[simp] theorem countDraw_pending (s : State) : (countDraw s).pending = s.pending := rfl
@[simp] theorem countDraw_draws (s : State) : (countDraw s).draws = s.draws + 1 := rfl
@[simp] theorem countDraw_mainDue (s : State) : (countDraw s).mainDue = s.mainDue := rfl

end Machine

end Sys2Proof
end

