-- ==== Sys2Proof/Laws/Ops.lean ====
section
/-! SUPPORT. The shared operations, one lemma for everything each can do: encoder-id checks, raising, draws, and the
outcome of every instruction. -/

namespace Sys2Proof.Machine

/-! ### Encoder ids (40_quadrature.md R64) -/

theorem encId?_eq_some_iff {e : Byte} {j : EncId} : encId? e = some j ↔ e.toNat = j.val := by
  have h0 : e.toNat = 0 ↔ e = 0 := by bv_omega
  have h1 : e.toNat = 1 ↔ e = 1 := by bv_omega
  obtain rfl | rfl := EncId.eq_zero_or_one j <;> unfold encId? <;> split_ifs <;> simp_all

theorem encId?_eq_none_iff {e : Byte} : encId? e = none ↔ 2 ≤ e.toNat := by
  unfold encId?
  split_ifs with h0 h1
  · simp [h0]
  · simp [h1]
  · simp only [true_iff]; bv_omega

theorem encId?_ofNat (j : EncId) : encId? (BitVec.ofNat 8 j.val) = some j := by
  obtain rfl | rfl := EncId.eq_zero_or_one j <;> rfl

theorem checkId_of_some {e : Byte} {j : EncId} (h : encId? e = some j) (s : State) (k : EncId → State) :
    checkId e s k = k j := by simp [checkId, h]

theorem checkId_of_none {e : Byte} (h : encId? e = none) (s : State) (k : EncId → State) :
    checkId e s k = raise (.badEncoderId e) s := by simp [checkId, h]

theorem checkAttached_of_attached {e : Byte} {j : EncId} {s : State} (h : encId? e = some j)
    (ha : (s.enc.get j).attached = true) (k : EncId → State) : checkAttached e s k = k j := by
  simp [checkAttached, checkId, h, ha]

theorem checkAttached_of_unattached {e : Byte} {j : EncId} {s : State} (h : encId? e = some j)
    (ha : (s.enc.get j).attached = false) (k : EncId → State) :
    checkAttached e s k = raise (.notAttached e) s := by
  simp [checkAttached, checkId, h, ha]

theorem checkAttached_of_none {e : Byte} {s : State} (h : encId? e = none) (k : EncId → State) :
    checkAttached e s k = raise (.badEncoderId e) s := by
  simp [checkAttached, checkId, h]

/-- Everything `check_id` can do. -/
theorem checkId_cases (e : Byte) (s : State) (k : EncId → State) :
    (∃ j, encId? e = some j ∧ checkId e s k = k j) ∨
      (encId? e = none ∧ checkId e s k = raise (.badEncoderId e) s) := by
  rcases h : encId? e with _ | j
  · exact .inr ⟨rfl, checkId_of_none h s k⟩
  · exact .inl ⟨j, rfl, checkId_of_some h s k⟩

/-- Everything `check_attached` can do. -/
theorem checkAttached_cases (e : Byte) (s : State) (k : EncId → State) :
    (∃ j, encId? e = some j ∧ (s.enc.get j).attached = true ∧ checkAttached e s k = k j) ∨
      (∃ c, (encId? e = none ∧ c = .badEncoderId e ∨
          (∃ j, encId? e = some j ∧ (s.enc.get j).attached = false) ∧ c = .notAttached e) ∧
        checkAttached e s k = raise c s) := by
  rcases h : encId? e with _ | j
  · exact .inr ⟨_, .inl ⟨rfl, rfl⟩, checkAttached_of_none h k⟩
  · rcases ha : (s.enc.get j).attached
    · exact .inr ⟨_, .inr ⟨⟨j, rfl, ha⟩, rfl⟩, checkAttached_of_unattached h ha k⟩
    · exact .inl ⟨j, rfl, ha, checkAttached_of_attached h ha k⟩

/-! ### Raising and draws -/

theorem raise_eq_faulted {s : State} (h : s.fault = none) (c : FaultCause) : raise c s = faulted c s := by
  simp [raise, faulted, h]

/-- A raised fault leaves some code in the register, whatever stood there (60_exceptions.md R105). -/
theorem raise_fault_ne_none (c : FaultCause) (s : State) : (raise c s).fault ≠ none := by
  rcases h : s.fault with _ | k <;> simp [h]

/-- Everything a read of a possibly undefined byte can do. -/
theorem byteOrDraw_some {s : State} (b : Byte) : byteOrDraw (some b) s = (b, s) := rfl

theorem byteOrDraw_none {s : State} : byteOrDraw none s = (Config.freeByte s.draws, countDraw s) := rfl

/-- A read of a possibly undefined byte changes at most the draw count. -/
theorem byteOrDraw_frame (v : Option Byte) (s : State) : ∃ n, (byteOrDraw v s).2 = { s with draws := n } := by
  cases v
  · exact ⟨s.draws + 1, rfl⟩
  · exact ⟨s.draws, rfl⟩

/-! ### The outcome of every instruction -/

@[simp] theorem exec_qdInit (r : BitVec 2) (s : State) : exec (.qdInit r) s = .next (qdInit r s) := rfl
@[simp] theorem exec_qdAttach (e p : Byte) (s : State) : exec (.qdAttach e p) s = .next (qdAttach e p s) := rfl
@[simp] theorem exec_qdTick (e : Byte) (x : Sample) (s : State) : exec (.qdTick e x) s = .next (qdTick e x s) := rfl
@[simp] theorem exec_timerIrq (x y : Sample) (s : State) : exec (.timerIrq x y) s = .next (timerIrq x y s) := rfl
@[simp] theorem exec_qdGetdir (e : Byte) (s : State) : exec (.qdGetdir e) s = .next (qdGetdir e s) := rfl
@[simp] theorem exec_qdGetpos (e : Byte) (s : State) : exec (.qdGetpos e) s = .next (qdGetpos e s) := rfl
@[simp] theorem exec_btnInit (s : State) : exec .btnInit s = .next (btnInit s) := rfl
@[simp] theorem exec_btnRead (lv : Frame) (s : State) : exec (.btnRead lv) s = .next (btnRead lv s) := rfl
@[simp] theorem exec_pinsOutput (s : State) : exec .pinsOutput s = .next (pinsOutput s) := rfl
@[simp] theorem exec_cmpLatchdir (e : Byte) (s : State) : exec (.cmpLatchdir e) s = .next (cmpLatchdir e s) := rfl
@[simp] theorem exec_cmpPublish (s : State) : exec .cmpPublish s = .next (cmpPublish s) := rfl
@[simp] theorem exec_ps2Init (s : State) : exec .ps2Init s = .next (ps2Init s) := rfl
@[simp] theorem exec_ps2Rx (b : Byte) (s : State) : exec (.ps2Rx b) s = .next (ps2Rx b s) := rfl
@[simp] theorem exec_ps2Xchg (b : Byte) (s : State) : exec (.ps2Xchg b) s = .next (ps2Xchg b s) := rfl
@[simp] theorem exec_pollHeader (s : State) : exec .pollHeader s = .next (ps2Rx pollHeaderByte s) := rfl
@[simp] theorem exec_cmdMatch (s : State) : exec .cmdMatch s = .next (ps2Rx cmdByte s) := rfl
@[simp] theorem exec_cmdMismatch (b : Byte) (s : State) : exec (.cmdMismatch b) s = .next (ps2Rx b s) := rfl
@[simp] theorem exec_data (b : Byte) (s : State) : exec (.data b) s = .next (ps2Rx b s) := rfl
@[simp] theorem exec_idle (b : Byte) (s : State) : exec (.idle b) s = .next (ps2Rx b s) := rfl

/-- Every instruction completes: `exec` answers a next state, which is the state `after` names. -/
theorem exec_eq_next_after (i : Instr) (s : State) : exec i s = .next (after i s) := by
  cases i <;> rfl

theorem after_of_exec {i : Instr} {s t : State} (h : exec i s = .next t) : after i s = t := by
  simp [after, h]

theorem next_inj {s t : State} (h : (Host.Outcome.next s : Host.Outcome State Fault Refusal) = .next t) : s = t := by
  injection h

@[simp] theorem afterAll_nil (s : State) : afterAll [] s = s := rfl

@[simp] theorem afterAll_cons (i : Instr) (is : List Instr) (s : State) :
    afterAll (i :: is) s = afterAll is (after i s) := rfl

end Sys2Proof.Machine
end

