-- ==== Sys2Proof/Laws/Checks.lean ====
section
/-! SUPPORT. The reset checks against the spec's own wording of them (60_exceptions.md R106, R107). -/

namespace Sys2Proof.Machine

theorem qentry_isSome {p : Params} {r c : Nat} (hr : r < 6) (hc : c < 4) : ∃ t, qentry p r c = some t := by
  simp [qentry, hr, hc]

theorem qentry_bounds {p : Params} {r c : Nat} {t : Byte} (h : qentry p r c = some t) : r < 6 ∧ c < 4 := by
  unfold qentry at h
  by_cases hr : r < 6
  · by_cases hc : c < 4
    · exact ⟨hr, hc⟩
    · simp [hr, hc] at h
  · simp [hr] at h

theorem mem_qtableIndexes {r c : Nat} : (r, c) ∈ qtableIndexes ↔ r < 6 ∧ c < 4 := by
  simp [qtableIndexes]

/-- A table whose every row and column is well-formed has no bad entry, and conversely. -/
theorem badEntry_eq_none_iff (p : Params) :
    badEntry p = none ↔ ∀ r c t, qentry p r c = some t → entryOk p t = true := by
  unfold badEntry
  rw [List.find?_eq_none]
  constructor
  · intro h r c t ht
    have hb := qentry_bounds ht
    have := h (r, c) (mem_qtableIndexes.mpr hb)
    simpa [ht] using this
  · rintro h ⟨r, c⟩ hm
    obtain ⟨hr, hc⟩ := mem_qtableIndexes.mp hm
    obtain ⟨t, ht⟩ := qentry_isSome (p := p) hr hc
    simp [ht, h r c t ht]

theorem entryOk_iff (p : Params) (t : Byte) :
    entryOk p t = true ↔
      (nextField t).toNat ≤ 5 ∧ (eventField t = 0 ∨ eventField t = p.evPos ∨ eventField t = p.evNeg) := by
  simp [entryOk, or_assoc]

theorem fallbackOk_iff (p : Params) :
    fallbackOk p = true ↔
      (p.fbPos.e0 ≠ p.fbNeg.e0 ∧ p.fbPos.e1 ≠ p.fbNeg.e1 ∧ p.fbPos.e0 ≠ p.fbPos.e1 ∧ p.fbPos.e0 ≠ p.fbNeg.e1 ∧
        p.fbNeg.e0 ≠ p.fbPos.e1 ∧ p.fbNeg.e0 ≠ p.fbNeg.e1) := by
  simp only [fallbackOk, decide_eq_true_eq, List.nodup_cons, List.mem_cons, List.not_mem_nil, or_false,
    List.nodup_nil, and_true, not_or, not_false_eq_true]
  tauto

theorem evCodesOk_iff (p : Params) : evCodesOk p = true ↔ p.evPos ≠ 0 ∧ p.evNeg ≠ 0 ∧ p.evPos ≠ p.evNeg := by
  simp [evCodesOk, and_assoc]

theorem buttonMapOfCode_isSome_iff (p : Params) (c : Byte) :
    buttonMapOfCode p c ≠ none ↔ c.toNat ≤ 6 ∨ c = p.customCode := by
  unfold buttonMapOfCode
  split_ifs with h1 h2
  · simp only [ne_eq, reduceCtorEq, not_false_eq_true, true_iff]; exact .inl (by omega)
  · simp [h2]
  · simp only [ne_eq, not_true_eq_false, false_iff, not_or]; exact ⟨by omega, h2⟩

theorem mapEntryOfCode_isSome_iff (p : Params) (c : Byte) :
    mapEntryOfCode p c ≠ none ↔ c.toNat ≤ 15 ∨ c = p.sentinelCode := by
  unfold mapEntryOfCode
  split_ifs with h1 h2
  · simp only [ne_eq, reduceCtorEq, not_false_eq_true, true_iff]; exact .inl (by omega)
  · simp [h2]
  · simp only [ne_eq, not_true_eq_false, false_iff, not_or]; exact ⟨by omega, h2⟩

end Sys2Proof.Machine
end

