-- ==== Sys2Proof/Laws/Quadrature.lean ====
section
/-! SUPPORT. What a tick does to a slot, and the closed forms of the encoder operations (40_quadrature.md). -/

namespace Sys2Proof.Machine

/-! ### One slot -/

@[simp] theorem tickSlot_attached (I : Inst) (x : Sample) (y : EncSlot) : (tickSlot I x y).attached = y.attached := by
  unfold tickSlot; dsimp only; split_ifs <;> rfl

@[simp] theorem tickSlot_pinpair (I : Inst) (x : Sample) (y : EncSlot) : (tickSlot I x y).pinpair = y.pinpair := by
  unfold tickSlot; dsimp only; split_ifs <;> rfl

@[simp] theorem tickSlot_inv (I : Inst) (x : Sample) (y : EncSlot) : (tickSlot I x y).inv = y.inv := by
  unfold tickSlot; dsimp only; split_ifs <;> rfl

@[simp] theorem tickSlot_fsm (I : Inst) (x : Sample) (y : EncSlot) :
    (tickSlot I x y).fsm = nextField (stateByte I.par y.fsm x) := by
  unfold tickSlot; dsimp only; split_ifs <;> rfl

/-- Everything a tick can do (R67): a detent in one direction, or no event, on the slot with its FSM advanced. -/
theorem tickSlot_cases (I : Inst) (x : Sample) (y : EncSlot) :
    let t := stateByte I.par y.fsm x
    let z := { y with fsm := nextField t }
    (eventField t = I.par.evPos ∧ tickSlot I x y = detent I .pos z) ∨
      (eventField t ≠ I.par.evPos ∧ eventField t = I.par.evNeg ∧ tickSlot I x y = detent I .neg z) ∨
      (eventField t ≠ I.par.evPos ∧ eventField t ≠ I.par.evNeg ∧ tickSlot I x y = noEvent z) := by
  dsimp only
  unfold tickSlot
  dsimp only
  split_ifs with h1 h2
  · exact .inl ⟨h1, rfl⟩
  · exact .inr (.inl ⟨h1, h2, rfl⟩)
  · exact .inr (.inr ⟨h1, h2, rfl⟩)

/-- The position after a detent, in integers (R68). -/
theorem positionAfter_toNat {P : Nat} (h1 : 1 ≤ P) (h2 : P ≤ 256) (pos : Byte) (δ : Dir) :
    ((positionAfter P pos δ).toNat : Int) = ((P : Int) + pos.toNat + dirInt δ) % P := by
  have h0 : (0 : Int) ≤ ((P : Int) + pos.toNat + dirInt δ) % P := Int.emod_nonneg _ (by omega)
  have hlt : ((P : Int) + pos.toNat + dirInt δ) % P < P := Int.emod_lt_of_pos _ (by omega)
  rw [positionAfter, if_pos ⟨h1, h2⟩, BitVec.toNat_ofInt]
  omega

/-- The position after a detent stays below PPR (R68, R73). -/
theorem positionAfter_lt {P : Nat} (h1 : 1 ≤ P) (h2 : P ≤ 256) (pos : Byte) (δ : Dir) :
    (positionAfter P pos δ).toNat < P := by
  have := positionAfter_toNat h1 h2 pos δ
  have hlt : ((P : Int) + pos.toNat + dirInt δ) % P < P := Int.emod_lt_of_pos _ (by omega)
  omega

theorem holdLoad_toNat {h : Nat} (hh : h ≤ 255) : (holdLoad h).toNat = h := by
  rw [holdLoad, if_pos hh, BitVec.toNat_ofNat]; omega

/-- The hold countdown never goes below 0 (R69). -/
theorem noEvent_hold_toNat (x : EncSlot) : (noEvent x).hold.toNat = x.hold.toNat - 1 := by
  unfold noEvent
  by_cases h : x.hold = 0
  · simp [h]
  · simp only [h, if_false]; bv_omega

@[simp] theorem noEvent_pos (x : EncSlot) : (noEvent x).pos = x.pos := rfl

theorem noEvent_dir (x : EncSlot) : (noEvent x).dir = if (noEvent x).hold = 0 then .zero else x.dir := rfl

/-! ### Closed forms of the operations -/

theorem qdTick_of_attached {e : Byte} {j : EncId} {s : State} (h : encId? e = some j)
    (ha : (s.enc.get j).attached = true) (x : Sample) :
    qdTick e x s = { s with enc := s.enc.set j (tickSlot s.inst x (s.enc.get j)), result := .none } := by
  rw [qdTick, checkAttached_of_attached h ha]; rfl

theorem after_qdTick_ofNat {j : EncId} {s : State} (ha : (s.enc.get j).attached = true) (x : Sample) :
    after (.qdTick (BitVec.ofNat 8 j.val) x) s =
      { s with enc := s.enc.set j (tickSlot s.inst x (s.enc.get j)), result := .none } :=
  qdTick_of_attached (encId?_ofNat j) ha x

theorem tickIfAttached_eq {e : Byte} {j : EncId} (h : encId? e = some j) (x : Sample) (s : State) :
    tickIfAttached e j x s =
      if (s.enc.get j).attached then
        { s with enc := s.enc.set j (tickSlot s.inst x (s.enc.get j)), result := .none }
      else s := by
  unfold tickIfAttached
  split_ifs with ha
  · exact qdTick_of_attached h ha x
  · rfl

/-- TIMER_IRQ as one update of both slots (R70). -/
theorem timerIrq_eq (s1 s0 : Sample) (s : State) :
    timerIrq s1 s0 s =
      { s with
        enc := if s.tmrEn then
            ⟨if s.enc.e0.attached then tickSlot s.inst s0 s.enc.e0 else s.enc.e0,
             if s.enc.e1.attached then tickSlot s.inst s1 s.enc.e1 else s.enc.e1⟩
          else s.enc
        result := .none } := by
  have h0 : encId? 0 = some 0 := rfl
  have h1 : encId? 1 = some 1 := rfl
  rw [timerIrq, tickIfAttached_eq h0, tickIfAttached_eq h1]
  rcases ht : s.tmrEn
  · simp [returning, ht]
  · rcases ha : s.enc.e0.attached <;> rcases hb : s.enc.e1.attached <;> simp [ha, hb, ht, returning]

/-- A sequence of ticks of one attached slot changes that slot only, as the fold of `tickSlot` does. -/
theorem afterAll_ticks {j : EncId} (samples : List Sample) {s : State} (ha : (s.enc.get j).attached = true) :
    let x := samples.foldl (fun y smp => tickSlot s.inst smp y) (s.enc.get j)
    (afterAll (samples.map (.qdTick (BitVec.ofNat 8 j.val))) s).enc.get j = x ∧
      (afterAll (samples.map (.qdTick (BitVec.ofNat 8 j.val))) s).inst = s.inst := by
  induction samples generalizing s with
  | nil => exact ⟨rfl, rfl⟩
  | cons smp rest ih =>
    simp only [List.map_cons, afterAll_cons, after_qdTick_ofNat ha, List.foldl_cons]
    simpa using ih (s := { s with enc := s.enc.set j (tickSlot s.inst smp (s.enc.get j)), result := .none })
      (by simpa using ha)

end Sys2Proof.Machine
end

