-- ==== Sys2Proof/Laws/Composer.lean ====
section
/-! SUPPORT. The bits of the composed word (42_composer.md R80) and the latches of CMP_PUBLISH (R83). -/

namespace Sys2Proof.Machine

theorem wordBit_getLsbD (k j : BitVec 4) : (wordBit k).getLsbD j.toNat = decide (k = j) := by
  revert k j; decide

theorem entryBits_getLsbD (e : Option MapEntry) (j : BitVec 4) :
    (entryBits e).getLsbD j.toNat = decide (e = some (some j)) := by
  rcases e with _ | _ | k <;> simp [entryBits, wordBit_getLsbD]

/-- A bit of the button bits: some pressed button among the first `n` is mapped to it. -/
theorem buttonBits_getLsbD (frame : Frame) (map : Mapping) (n : Nat) (j : BitVec 4) :
    (buttonBits frame map n).getLsbD j.toNat = true ↔
      ∃ i, i < n ∧ frame.getLsbD i = true ∧ map[i]? = some (some j) := by
  induction n with
  | zero => simp [buttonBits]
  | succ n ih =>
    rw [buttonBits, BitVec.getLsbD_or, Bool.or_eq_true, ih]
    constructor
    · rintro (⟨i, hi, hf, hm⟩ | h)
      · exact ⟨i, by omega, hf, hm⟩
      · split_ifs at h with hf
        · rw [entryBits_getLsbD, decide_eq_true_eq] at h
          exact ⟨n, by omega, hf, h⟩
        · simp at h
    · rintro ⟨i, hi, hf, hm⟩
      rcases Nat.lt_succ_iff_lt_or_eq.mp hi with hlt | rfl
      · exact .inl ⟨i, hlt, hf, hm⟩
      · refine .inr ?_
        rw [if_pos hf, entryBits_getLsbD, hm]; simp

theorem fallbackBits_getLsbD (p : Params) (i : EncId) (d : Dir) (j : BitVec 4) :
    (fallbackBits p i d).getLsbD j.toNat = true ↔ (d = .pos ∧ p.fbPos.get i = j) ∨ (d = .neg ∧ p.fbNeg.get i = j) := by
  cases d <;> simp [fallbackBits, wordBit_getLsbD]

/-- Everything CMP_PUBLISH can do (R83). -/
theorem cmpPublish_cases (s : State) :
    (∃ f d0 d1, s.frame = some f ∧ s.d.e0 = some d0 ∧ s.d.e1 = some d1 ∧
      cmpPublish s = { s with
        outw := some (compose s.inst.par f d0 d1 (activeMap s.inst) (activeForce s.inst)), result := .none }) ∨
    (s.frame = none ∧ cmpPublish s = raise (.unwritten .frame) s) ∨
    (s.frame ≠ none ∧ s.d.e0 = none ∧ cmpPublish s = raise (.unwritten .d0) s) ∨
    (s.frame ≠ none ∧ s.d.e0 ≠ none ∧ s.d.e1 = none ∧ cmpPublish s = raise (.unwritten .d1) s) := by
  rcases hf : s.frame with _ | f <;> rcases h0 : s.d.e0 with _ | d0 <;> rcases h1 : s.d.e1 with _ | d1 <;>
    simp [cmpPublish, hf, h0, h1, returning, setOutw]

theorem cmpLatchdir_of_attached {e : Byte} {j : EncId} {s : State} (h : encId? e = some j)
    (ha : (s.enc.get j).attached = true) :
    cmpLatchdir e s = { s with d := s.d.set j (some (visibleDir (s.enc.get j))), result := .none } := by
  rw [cmpLatchdir, checkAttached_of_attached h ha]; rfl

end Sys2Proof.Machine
end

