-- ==== Sys2Proof/Laws/Decode.lean ====
section
/-! SUPPORT. The decoder said once: which opcode, format and operands a legal word has, and the bits of an operation word. -/

namespace Sys2Proof

theorem checked_eq_ok_iff {w : OpWord} {f : Format} {i j : Instr} :
    checked w f i = .ok j ↔ w &&& f.mustBeZero = 0 ∧ i = j := by
  unfold checked
  by_cases h : w &&& f.mustBeZero = 0
  · rw [if_pos h]; simp [h]
  · rw [if_neg h]
    constructor
    · intro h'; cases h'
    · intro h'; exact absurd h'.1 h

theorem ite_eq_cases {α : Type} {c : Prop} [Decidable c] {a b x : α} (h : (if c then a else b) = x) :
    (c ∧ a = x) ∨ (¬ c ∧ b = x) := by
  by_cases hc : c
  · exact .inl ⟨hc, by rwa [if_pos hc] at h⟩
  · exact .inr ⟨hc, by rwa [if_neg hc] at h⟩

/-- The rows of the opcode map with the operands taken from `w` (30_encoding.md R58, R59). -/
def decodedRows (w : OpWord) : List (Byte × Format × Instr) :=
  [(0x01, .fRate, .qdInit (OpWord.low2 w)),
   (0x02, .fEP, .qdAttach (OpWord.fieldE w) (OpWord.low8 w)),
   (0x03, .fES, .qdTick (OpWord.fieldE w) (OpWord.low2 w)),
   (0x04, .fSS, .timerIrq (OpWord.fieldS1 w) (OpWord.low2 w)),
   (0x05, .fE, .qdGetdir (OpWord.fieldE w)),
   (0x06, .fE, .qdGetpos (OpWord.fieldE w)),
   (0x10, .fNone, .btnInit),
   (0x11, .fLV, .btnRead (OpWord.fieldLV w)),
   (0x12, .fNone, .pinsOutput),
   (0x20, .fE, .cmpLatchdir (OpWord.fieldE w)),
   (0x21, .fNone, .cmpPublish),
   (0x30, .fNone, .ps2Init),
   (0x31, .fB, .ps2Rx (OpWord.low8 w)),
   (0x32, .fB, .ps2Xchg (OpWord.low8 w))]

/-- A legal word has the opcode of a row, no must-be-zero bit of its format, and decodes to that row's instruction. -/
theorem decode_ok_row {w : OpWord} {i : Instr} (h : decode w = .ok i) :
    ∃ r ∈ decodedRows w, OpWord.opcode w = r.1 ∧ w &&& r.2.1.mustBeZero = 0 ∧ i = r.2.2 := by
  have row : ∀ {op : Byte} {f : Format} {j : Instr}, (op, f, j) ∈ decodedRows w → OpWord.opcode w = op →
      checked w f j = .ok i →
      ∃ r ∈ decodedRows w, OpWord.opcode w = r.1 ∧ w &&& r.2.1.mustBeZero = 0 ∧ i = r.2.2 := by
    intro op f j hm ho hc
    rw [checked_eq_ok_iff] at hc
    exact ⟨_, hm, ho, hc.1, hc.2.symm⟩
  unfold decode at h
  dsimp only at h
  iterate 14
    rcases ite_eq_cases h with ⟨ho, h⟩ | ⟨-, h⟩
    · exact row (by simp [decodedRows]) ho h
  cases h

theorem opcode_word (op : Byte) (f : BitVec 24) : OpWord.opcode (word op f) = op := by
  unfold OpWord.opcode word
  ext i hi
  rw [BitVec.getElem_extractLsb', BitVec.getLsbD_append]
  interval_cases i <;> simp

/-- A word is its opcode and its low 24 bits. -/
theorem word_of_fields {w : OpWord} {op : Byte} {f : BitVec 24} (h : OpWord.opcode w = op)
    (hf : w.extractLsb' 0 24 = f) : word op f = w := by
  subst h hf
  unfold word OpWord.opcode
  apply BitVec.eq_of_getLsbD_eq
  intro i hi
  simp only [BitVec.getLsbD_append, BitVec.getLsbD_extractLsb']
  interval_cases i <;> simp

/-- A must-be-zero bit of a legal word is 0. -/
theorem bit_eq_false_of_and_eq_zero {w m : OpWord} (h : w &&& m = 0) (i : Nat) (hm : m.getLsbD i = true) :
    w.getLsbD i = false := by
  have := congrArg (fun v : OpWord => v.getLsbD i) h
  simpa [hm] using this

end Sys2Proof
end

