-- ==== Sys2Proof/Laws/PerInstr.lean ====
section
/-! SUPPORT. Statements made per instruction. RowMatch: every instruction's encoding matches its own row of
spec/opcode_table.json. -/

namespace Sys2Proof.Laws

/-- The row of spec/opcode_table.json of an instruction, as its match and its mask; a wire byte stands in bits 7:0. -/
def rowOf : Instr → OpWord × OpWord
  | .qdInit _ => (0x01000000, 0xFFFFFFFC)
  | .qdAttach _ _ => (0x02000000, 0xFFFF0000)
  | .qdTick _ _ => (0x03000000, 0xFFFF00FC)
  | .timerIrq _ _ => (0x04000000, 0xFFFFFFF0)
  | .qdGetdir _ => (0x05000000, 0xFFFF00FF)
  | .qdGetpos _ => (0x06000000, 0xFFFF00FF)
  | .btnInit => (0x10000000, 0xFFFFFFFF)
  | .btnRead _ => (0x11000000, 0xFFFFF000)
  | .pinsOutput => (0x12000000, 0xFFFFFFFF)
  | .cmpLatchdir _ => (0x20000000, 0xFFFF00FF)
  | .cmpPublish => (0x21000000, 0xFFFFFFFF)
  | .ps2Init => (0x30000000, 0xFFFFFFFF)
  | .ps2Rx _ => (0x31000000, 0xFFFFFF00)
  | .ps2Xchg _ => (0x32000000, 0xFFFFFF00)
  | .pollHeader => (0x01, 0xFF)
  | .cmdMatch => (0x42, 0xFF)
  | .cmdMismatch _ => (0x00, 0x00)
  | .data _ => (0x00, 0x00)
  | .idle _ => (0x00, 0x00)

/-- The bits of an encoding, numbered as spec/opcode_table.json numbers them. -/
def encodedBits : Encoded → OpWord
  | .opWord w => w
  | .wireByte b => b.setWidth 32

/-- An instruction's encoding matches its own row. -/
def RowMatch.Statement (i : Instr) : Prop := encodedBits (encode i) &&& (rowOf i).2 = (rowOf i).1

namespace RowMatch

theorem qdInit (rate : BitVec 2) : Statement (.qdInit rate) := by
  unfold Statement; revert rate; decide

theorem qdAttach (e p : Byte) : Statement (.qdAttach e p) := by
  apply BitVec.eq_of_getLsbD_eq; intro i hi
  simp only [encodedBits, encode, rowOf, word, BitVec.getLsbD_and, BitVec.getLsbD_append]
  interval_cases i <;> simp

theorem qdTick (e : Byte) (s : Sample) : Statement (.qdTick e s) := by
  apply BitVec.eq_of_getLsbD_eq; intro i hi
  simp only [encodedBits, encode, rowOf, word, BitVec.getLsbD_and, BitVec.getLsbD_append]
  interval_cases i <;> simp

theorem timerIrq (s1 s0 : Sample) : Statement (.timerIrq s1 s0) := by
  unfold Statement; revert s1 s0; decide

theorem qdGetdir (e : Byte) : Statement (.qdGetdir e) := by
  apply BitVec.eq_of_getLsbD_eq; intro i hi
  simp only [encodedBits, encode, rowOf, word, BitVec.getLsbD_and, BitVec.getLsbD_append]
  interval_cases i <;> simp

theorem qdGetpos (e : Byte) : Statement (.qdGetpos e) := by
  apply BitVec.eq_of_getLsbD_eq; intro i hi
  simp only [encodedBits, encode, rowOf, word, BitVec.getLsbD_and, BitVec.getLsbD_append]
  interval_cases i <;> simp

theorem btnInit : Statement .btnInit := by unfold Statement; decide

theorem btnRead (lv : Frame) : Statement (.btnRead lv) := by
  apply BitVec.eq_of_getLsbD_eq; intro i hi
  simp only [encodedBits, encode, rowOf, word, BitVec.getLsbD_and, BitVec.getLsbD_append]
  interval_cases i <;> simp

theorem pinsOutput : Statement .pinsOutput := by unfold Statement; decide

theorem cmpLatchdir (e : Byte) : Statement (.cmpLatchdir e) := by
  apply BitVec.eq_of_getLsbD_eq; intro i hi
  simp only [encodedBits, encode, rowOf, word, BitVec.getLsbD_and, BitVec.getLsbD_append]
  interval_cases i <;> simp

theorem cmpPublish : Statement .cmpPublish := by unfold Statement; decide

theorem ps2Init : Statement .ps2Init := by unfold Statement; decide

theorem ps2Rx (b : Byte) : Statement (.ps2Rx b) := by
  apply BitVec.eq_of_getLsbD_eq; intro i hi
  simp only [encodedBits, encode, rowOf, word, BitVec.getLsbD_and, BitVec.getLsbD_append]
  interval_cases i <;> simp

theorem ps2Xchg (b : Byte) : Statement (.ps2Xchg b) := by
  apply BitVec.eq_of_getLsbD_eq; intro i hi
  simp only [encodedBits, encode, rowOf, word, BitVec.getLsbD_and, BitVec.getLsbD_append]
  interval_cases i <;> simp

theorem pollHeader : Statement .pollHeader := by unfold Statement; decide

theorem cmdMatch : Statement .cmdMatch := by unfold Statement; decide

theorem cmdMismatch (b : Byte) : Statement (.cmdMismatch b) := by simp [Statement, rowOf]

theorem data (b : Byte) : Statement (.data b) := by simp [Statement, rowOf]

theorem idle (b : Byte) : Statement (.idle b) := by simp [Statement, rowOf]

end RowMatch

end Sys2Proof.Laws
end

