-- ==== Sys2Proof/Laws/Ps2.lean ====
section
/-! SUPPORT. What the byte-received handler can do (43_ps2.md R89 to R100). -/

namespace Sys2Proof.Machine

theorem loadReply_of_mask {s : State} {m : Byte} (h : s.mask = some m) (v : Byte) :
    loadReply v s = { s with tx := some (v ^^^ m) } := by
  simp [loadReply, h, byteOrDraw, setTx]

/-- Loading a reply leaves `tx` defined and changes at most the draw count beside it. -/
theorem loadReply_frame (v : Byte) (s : State) : ∃ r n, loadReply v s = { s with tx := some r, draws := n } := by
  rcases Option.eq_none_or_eq_some s.mask with h | ⟨m, h⟩
  · exact ⟨v ^^^ Config.freeByte s.draws, s.draws + 1, by simp [loadReply, h, byteOrDraw, setTx, drawnByte, countDraw]⟩
  · exact ⟨v ^^^ m, s.draws, by rw [loadReply_of_mask h]⟩

theorem replyAck_of_mask {s : State} {m : Byte} (h : s.mask = some m) (v : Byte) :
    replyAck v s = { s with tx := some (v ^^^ m), trace := s.trace ++ [.ack] } := by
  rw [replyAck, loadReply_of_mask h]; rfl

/-- A step case changes `tx`, the trace (by ACK at most) and the draw count, and nothing else. -/
theorem replyAt_frame (k : Fin 6) (b : Byte) (s : State) :
    ∃ v l n, replyAt k b s = { s with tx := v, trace := s.trace ++ l, draws := n } ∧ (l = [] ∨ l = [.ack]) := by
  have ack : ∀ (v : Byte) (t : State) (m : Nat), t = { s with draws := m } →
      ∃ w l n, replyAck v t = { s with tx := w, trace := s.trace ++ l, draws := n } ∧ (l = [] ∨ l = [.ack]) := by
    rintro v t m rfl
    obtain ⟨r, n, h⟩ := loadReply_frame v { s with draws := m }
    exact ⟨some r, [.ack], n, by rw [replyAck, h]; rfl, .inr rfl⟩
  have plain : ∀ v : Byte,
      ∃ w l n, loadReply v s = { s with tx := w, trace := s.trace ++ l, draws := n } ∧ (l = [] ∨ l = [.ack]) := by
    intro v
    obtain ⟨r, n, h⟩ := loadReply_frame v s
    exact ⟨some r, [], n, by rw [h]; simp, .inl rfl⟩
  match k with
  | 0 => exact ack _ s s.draws rfl
  | 1 =>
    unfold replyAt step1
    split_ifs
    · exact ack _ s s.draws rfl
    · exact ⟨none, [], s.draws, by simp [setTx], .inl rfl⟩
  | 2 =>
    obtain ⟨n, h⟩ := byteOrDraw_frame (outLow s) s
    exact ack _ _ n h
  | 3 =>
    obtain ⟨n, h⟩ := byteOrDraw_frame (outHigh s) s
    exact ack _ _ n h
  | 4 => exact ack _ s s.draws rfl
  | 5 => exact plain _

@[simp] theorem handlingStep_header (k : Fin 6) : handlingStep k pollHeaderByte = 0 := if_pos rfl

/-- A byte that is not the header is handled at the current step (R91). -/
theorem handlingStep_of_ne {b : Byte} (h : b ≠ pollHeaderByte) (k : Fin 6) : handlingStep k b = k := if_neg h

@[simp] theorem stepSucc_val (k : Fin 6) : (stepSucc k).val = min (k.val + 1) 5 := rfl

theorem ps2Handler_of_disabled {s : State} (h : s.ps2En = false) (b : Byte) : ps2Handler b s = s := by
  simp [ps2Handler, h]

/-- The enabled handler: ACTIVE, the step case of the handling step, and the advance (R89). -/
theorem ps2Handler_of_enabled {s : State} (h : s.ps2En = true) (b : Byte) :
    ps2Handler b s =
      setPs2Step (stepSucc (handlingStep s.ps2Step b))
        (replyAt (handlingStep s.ps2Step b) b (setPs2Step (handlingStep s.ps2Step b) (emit .active s))) := by
  simp [ps2Handler, h]

/-- The handler changes the step, `tx`, the trace (by ACTIVE and perhaps ACK) and the draw count, and nothing else. -/
theorem ps2Handler_frame (b : Byte) (s : State) :
    ∃ k v l n, ps2Handler b s = { s with ps2Step := k, tx := v, trace := s.trace ++ l, draws := n } ∧
      (s.ps2En = false → k = s.ps2Step ∧ v = s.tx ∧ l = [] ∧ n = s.draws) ∧
      (s.ps2En = true → k = stepSucc (handlingStep s.ps2Step b) ∧ (l = [.active] ∨ l = [.active, .ack])) := by
  rcases Bool.eq_false_or_eq_true s.ps2En with h | h
  case inr => exact ⟨s.ps2Step, s.tx, [], s.draws, by rw [ps2Handler_of_disabled h]; simp, by simp, by simp [h]⟩
  · rw [ps2Handler_of_enabled h]
    obtain ⟨v, l, n, hr, hl⟩ := replyAt_frame (handlingStep s.ps2Step b) b
      (setPs2Step (handlingStep s.ps2Step b) (emit .active s))
    refine ⟨_, v, .active :: l, n, by rw [hr]; simp [setPs2Step, emit], by simp [h], fun _ => ⟨rfl, ?_⟩⟩
    rcases hl with rfl | rfl <;> simp

/-- PS2_RX, and so every wire class, changes what the handler changes, and the result. -/
theorem ps2Rx_frame (b : Byte) (s : State) :
    ∃ k v l n, ps2Rx b s =
        { s with ps2Step := k, tx := v, trace := s.trace ++ l, draws := n, result := .none } ∧
      (s.ps2En = false → k = s.ps2Step ∧ v = s.tx ∧ l = [] ∧ n = s.draws) ∧
      (s.ps2En = true → k = stepSucc (handlingStep s.ps2Step b) ∧ (l = [.active] ∨ l = [.active, .ack])) := by
  obtain ⟨k, v, l, n, h, hd, he⟩ := ps2Handler_frame b s
  exact ⟨k, v, l, n, by rw [ps2Rx, h]; rfl, hd, he⟩

/-- With a mask, an enabled handler at a step case that needs no draw, in closed form. -/
theorem ps2Rx_of_reply {s : State} {k : Fin 6} {v : Option Byte} {l : List Event} (h : s.ps2En = true) (b : Byte)
    (hk : handlingStep s.ps2Step b = k)
    (hr : replyAt k b { s with ps2Step := k, trace := s.trace ++ [.active] } =
      { s with ps2Step := k, tx := v, trace := s.trace ++ .active :: l }) :
    ps2Rx b s = { s with ps2Step := stepSucc k, tx := v, trace := s.trace ++ .active :: l, result := .none } := by
  rw [ps2Rx, ps2Handler_of_enabled h, hk]
  have : setPs2Step k (emit .active s) = { s with ps2Step := k, trace := s.trace ++ [.active] } := rfl
  rw [this, hr]; rfl

/-- An exchange, enabled: the shifted-out byte, the XCHG event, the handler (R88). -/
theorem ps2Xchg_of_enabled {s : State} (h : s.ps2En = true) (b : Byte) :
    ps2Xchg b s = returning (.byte (byteOrDraw s.tx s).1)
      (ps2Handler b (emit (.xchg b (byteOrDraw s.tx s).1) (byteOrDraw s.tx s).2)) := by
  simp [ps2Xchg, h]

theorem ps2Xchg_of_disabled {s : State} (h : s.ps2En = false) (b : Byte) :
    ps2Xchg b s = { s with result := .byte (Config.freeByte s.draws), draws := s.draws + 1 } := by
  simp [ps2Xchg, h, returning, countDraw, drawnByte]

/-- PS2_XCHG changes the step, `tx`, the trace (by its XCHG event and what the handler emits), the draw count and the
result, and while disabled only the last two. -/
theorem ps2Xchg_frame (b : Byte) (s : State) :
    ∃ k v l n r, ps2Xchg b s = { s with ps2Step := k, tx := v, trace := s.trace ++ l, draws := n, result := r } ∧
      (s.ps2En = false → k = s.ps2Step ∧ v = s.tx ∧ l = []) ∧
      (s.ps2En = true → k = stepSucc (handlingStep s.ps2Step b) ∧
        ∃ miso, l = [.xchg b miso, .active] ∨ l = [.xchg b miso, .active, .ack]) := by
  rcases Bool.eq_false_or_eq_true s.ps2En with h | h
  · rw [ps2Xchg_of_enabled h]
    obtain ⟨n, hn⟩ := byteOrDraw_frame s.tx s
    rw [hn]
    generalize (byteOrDraw s.tx s).1 = m
    obtain ⟨k, v, l, n', hh, -, hl⟩ := ps2Handler_frame b (emit (.xchg b m) { s with draws := n })
    rw [hh]
    obtain ⟨hk, hl⟩ := hl h
    refine ⟨k, v, .xchg b m :: l, n', .byte m, by simp [returning, emit], by simp [h], fun _ => ⟨hk, m, ?_⟩⟩
    rcases hl with rfl | rfl <;> simp
  · rw [ps2Xchg_of_disabled h]
    exact ⟨s.ps2Step, s.tx, [], s.draws + 1, .byte (Config.freeByte s.draws), by simp, by simp, by simp [h]⟩

end Sys2Proof.Machine
end

