-- ==== Sys2Proof/Laws/Step.lean ====
section
/-! SUPPORT. What one step can do, said once: a fault register that is set stops the block, a pending request runs, and
with none pending some agent steps. -/

namespace Sys2Proof.Machine

theorem nil_or_cons {α : Type} (l : List α) : l = [] ∨ ∃ a m, l = a :: m := by
  cases l with
  | nil => exact .inl rfl
  | cons a m => exact .inr ⟨a, m, rfl⟩

theorem step_of_fault {s : State} {c : FaultCode} (h : s.fault = some c) : step s = .fault (.stuck c) := by
  simp [step, h]

theorem step_of_pending {s : State} {r : Request} {rest : List Request} (h : s.fault = none)
    (hp : s.pending = r :: rest) : step s = runRequest r (setPending rest s) := by
  simp [step, h, hp]

theorem step_of_idle {s : State} (h : s.fault = none) (hp : s.pending = []) :
    step s = runAgent (freeChoice s).1 (takeChoice s) := by
  simp [step, h, hp]

theorem advancePhase_of_ok {s : State} (h : s.fault = none) :
    advancePhase s = { s with mphase := nextPhase s.mphase } := by
  simp [advancePhase, h, setPhase]

theorem advancePhase_of_fault {s : State} (h : s.fault ≠ none) : advancePhase s = s := by
  rcases hf : s.fault with _ | c
  · exact absurd hf h
  · simp [advancePhase, hf]

/-- An agent step is its operation followed by what the agent does beside it. -/
theorem runAgent_eq (a : AgentStep) (s : State) :
    runAgent a s = .next (afterAgent a (after (agentInstr s a) s)) := by
  rw [runAgent, exec_eq_next_after]; rfl

/-- Everything a request can do: run an instruction, raise ILLEGAL_OP, or be an agent's step. -/
theorem runRequest_cases (r : Request) (s : State) :
    (∃ i, (∀ a, r ≠ .agent a) ∧ runRequest r s = .next (after i s)) ∨
      (∃ w, r = .word w ∧ runRequest r s = .next (raise (.illegalOp w) s)) ∨
      (∃ a, r = .agent a ∧ runRequest r s = .next (afterAgent a (after (agentInstr s a) s))) := by
  cases r with
  | word w =>
    rcases h : decode w with e | i
    · exact .inr (.inl ⟨w, rfl, by simp [runRequest, h]⟩)
    · exact .inl ⟨i, by simp, by simp [runRequest, h, exec_eq_next_after]⟩
  | wire b => exact .inl ⟨classify s.ps2Step b, by simp, by simp [runRequest, exec_eq_next_after]⟩
  | agent a => exact .inr (.inr ⟨a, rfl, by simp [runRequest, runAgent_eq]⟩)

/-- Everything the free choice can do to the state: a draw is counted, and what MAIN may still wait is set. -/
theorem takeChoice_eq (s : State) :
    takeChoice s = { s with draws := s.draws + 1, mainDue := (freeChoice s).2 } := rfl

/-- Everything the free choice can be: MAIN where it is due, and otherwise any agent, with MAIN due one step earlier. -/
theorem freeChoice_cases (s : State) :
    (s.mainDue.getD (Config.freeWait s.draws) = 0 ∧
        ∃ p1 p2, freeChoice s = (.main p1 p2, none)) ∨
      ∃ k, s.mainDue.getD (Config.freeWait s.draws) = k + 1 ∧ freeChoice s = (Config.freeStep s.draws, some k) := by
  unfold freeChoice
  rcases s.mainDue.getD (Config.freeWait s.draws) with _ | k
  · exact .inl ⟨rfl, _, _, rfl⟩
  · exact .inr ⟨k, rfl, rfl⟩

/-- Everything a step that answers a next state can do, its guard included: no fault stood, and from the state without the
consumed request (or with the free choice made) an instruction ran, ILLEGAL_OP was raised, or an agent stepped. -/
theorem step_cases {s t : State} (h : step s = .next t) : s.fault = none ∧
    ∃ u : State,
      ((∃ r rest, s.pending = r :: rest ∧ u = setPending rest s) ∨ (s.pending = [] ∧ u = takeChoice s)) ∧
      ((∃ i, t = after i u) ∨ (∃ w, t = raise (.illegalOp w) u) ∨
        (∃ a, t = afterAgent a (after (agentInstr u a) u))) := by
  rcases Option.eq_none_or_eq_some s.fault with hf | ⟨c, hf⟩
  · refine ⟨hf, ?_⟩
    rcases nil_or_cons s.pending with hp | ⟨r, rest, hp⟩
    · rw [step_of_idle hf hp, runAgent_eq] at h
      exact ⟨takeChoice s, .inr ⟨hp, rfl⟩, .inr (.inr ⟨_, (next_inj h).symm⟩)⟩
    · rw [step_of_pending hf hp] at h
      refine ⟨setPending rest s, .inl ⟨r, rest, hp, rfl⟩, ?_⟩
      rcases runRequest_cases r (setPending rest s) with ⟨i, -, hr⟩ | ⟨w, -, hr⟩ | ⟨a, -, hr⟩ <;> rw [hr] at h
      · exact .inl ⟨i, (next_inj h).symm⟩
      · exact .inr (.inl ⟨w, (next_inj h).symm⟩)
      · exact .inr (.inr ⟨a, (next_inj h).symm⟩)
  · rw [step_of_fault hf] at h; cases h

/-- The same with the state before the operation written as `s` with the model's own fields changed. -/
theorem step_cases_frame {s t : State} (h : step s = .next t) : s.fault = none ∧
    ∃ u : State, (∃ l n k, u = { s with pending := l, draws := n, mainDue := k }) ∧
      ((∃ i, t = after i u) ∨ (∃ w, t = raise (.illegalOp w) u) ∨
        (∃ a, t = afterAgent a (after (agentInstr u a) u))) := by
  obtain ⟨hf, u, ⟨r, rest, -, rfl⟩ | ⟨-, rfl⟩, ht⟩ := step_cases h
  · exact ⟨hf, _, ⟨rest, s.draws, s.mainDue, rfl⟩, ht⟩
  · exact ⟨hf, _, ⟨s.pending, s.draws + 1, (freeChoice s).2, rfl⟩, ht⟩

/-- What an agent does beside its operation changes the MAIN phase at most. -/
theorem afterAgent_frame (a : AgentStep) (s : State) : ∃ p, afterAgent a s = { s with mphase := p } := by
  cases a with
  | main p1 p2 =>
    rcases Option.eq_none_or_eq_some s.fault with hf | ⟨c, hf⟩
    · exact ⟨_, advancePhase_of_ok hf⟩
    · exact ⟨s.mphase, advancePhase_of_fault (by simp [hf])⟩
  | _ => exact ⟨s.mphase, rfl⟩

theorem steps_succ_of_next {s t : State} (h : step s = .next t) (k : Nat) : steps (k + 1) s = steps k t := by
  simp [steps, h]

@[simp] theorem steps_zero (s : State) : steps 0 s = .next s := rfl

theorem steps_add (j k : Nat) {s t : State} (h : steps j s = .next t) : steps (j + k) s = steps k t := by
  induction j generalizing s with
  | zero => simp only [steps_zero] at h; rw [Nat.zero_add, next_inj h]
  | succ j ih =>
    rw [Nat.add_right_comm]
    simp only [steps] at h ⊢
    split at h <;> first | exact ih h | cases h

end Sys2Proof.Machine
end

