-- ==== Sys2Proof/Tests/Slice0.lean ====
section
/-! SUPPORT. Tests, each with its expected result from spec/95_test_vectors.md or the rule it names, and one witness for the
hypotheses of every statement that has some. -/

namespace Sys2Proof.Tests

open Sys2Proof.Machine

/-! ### A state to test on -/

/-- An attached slot at rest. -/
def restSlot (inv : Bool) : EncSlot :=
  { attached := true, pinpair := some 1, fsm := 0, pos := 0, dir := .zero, hold := 0, inv := inv }

/-- EXP after boot and a first publish of 0x0FFF, the emulator enabled with mask 0x00 (95_test_vectors.md section 2.7). -/
def live : State where
  inst := exampleInst
  tmrEn := true
  tmrRate := some .khz4
  enc := ⟨restSlot false, restSlot true⟩
  pinmode := .output
  frame := some 0xF00
  d := ⟨some .zero, some .zero⟩
  mphase := .publish
  outw := some 0x0FFF
  ps2En := true
  mask := some 0x00
  ps2Step := 0
  tx := some 0x99
  fault := none
  trace := []
  result := .none
  pending := []
  draws := 0
  mainDue := none

/-- `live` with slot 0 replaced. -/
def withSlot (x : EncSlot) : State := { live with enc := ⟨x, live.enc.e1⟩ }

/-- `live` with another PPR and hold. -/
def withCfg (ppr hold : Nat) (s : State) : State :=
  { s with inst := { s.inst with cfg := { s.inst.cfg with rotaryPPR := ppr, rotaryHold := hold } } }

def asked (rs : List Request) : State := { live with pending := rs }

def atStep (k : Fin 6) (m : Byte) : State := { live with ps2Step := k, mask := some m }

/-- What a step leaves, if it leaves a state. -/
def next? (s : State) : Option State :=
  match step s with
  | .next t => some t
  | .fault _ => none
  | .refused _ => none

/-! ### WellFormed: each check refuses an ill-formed term (30_encoding.md R54) -/

theorem test_wf_mismatch_is_not_the_header : (Instr.cmdMismatch 0x01).wellFormed = false := by decide
theorem test_wf_mismatch_is_not_the_command : (Instr.cmdMismatch 0x42).wellFormed = false := by decide
theorem test_wf_data_is_not_the_header : (Instr.data 0x01).wellFormed = false := by decide
theorem test_wf_idle_is_not_the_header : (Instr.idle 0x01).wellFormed = false := by decide
theorem test_wf_accepts : (Instr.cmdMismatch 0x43).wellFormed = true ∧ (Instr.data 0x42).wellFormed = true ∧
    (Instr.idle 0x42).wellFormed = true := by decide

/-! ### Decoding: words of 95_test_vectors.md section 2.1 and of the rules' examples, one per constructor -/

theorem test_decode_qdInit : decode 0x01000002 = .ok (.qdInit 0b10) := by decide
theorem test_decode_qdAttach : decode 0x02000123 = .ok (.qdAttach 1 0x23) := by decide
theorem test_decode_qdTick : decode 0x03000001 = .ok (.qdTick 0 0b01) := by decide
theorem test_decode_timerIrq : decode 0x0400000D = .ok (.timerIrq 0b11 0b01) := by decide
theorem test_decode_qdGetdir : decode 0x05000100 = .ok (.qdGetdir 1) := by decide
theorem test_decode_qdGetpos : decode 0x06000200 = .ok (.qdGetpos 2) := by decide
theorem test_decode_btnInit : decode 0x10000000 = .ok .btnInit := by decide
theorem test_decode_btnRead : decode 0x11000FFE = .ok (.btnRead 0xFFE) := by decide
theorem test_decode_pinsOutput : decode 0x12000000 = .ok .pinsOutput := by decide
theorem test_decode_cmpLatchdir : decode 0x20000100 = .ok (.cmpLatchdir 1) := by decide
theorem test_decode_cmpPublish : decode 0x21000000 = .ok .cmpPublish := by decide
theorem test_decode_ps2Init : decode 0x30000000 = .ok .ps2Init := by decide
theorem test_decode_ps2Rx : decode 0x31000043 = .ok (.ps2Rx 0x43) := by decide
theorem test_decode_ps2Xchg : decode 0x32000042 = .ok (.ps2Xchg 0x42) := by decide
theorem test_decode_pollHeader : (∀ k, classify k 0x01 = .pollHeader) ∧ decodeTableWord 8 0x01 = some .pollHeader := by
  decide
theorem test_decode_cmdMatch : classify 1 0x42 = .cmdMatch ∧ decodeTableWord 8 0x42 = some .cmdMatch := by decide
theorem test_decode_cmdMismatch : classify 1 0x43 = .cmdMismatch 0x43 := by decide
theorem test_decode_data : classify 0 0x42 = .data 0x42 ∧ classify 2 0x00 = .data 0x00 ∧ classify 3 0x00 = .data 0x00 ∧
    classify 4 0x43 = .data 0x43 := by decide
theorem test_decode_idle : classify 5 0x42 = .idle 0x42 := by decide

/-- The illegal words of 95_test_vectors.md section 2.1. -/
theorem test_decode_illegal :
    [0x01000004, 0x03000004, 0x04000010, 0x05000001, 0x10000001, 0x11001000, 0x32000100, 0x00000000, 0x07000000,
      0xFFFFFFFF].all (fun w => (decodeTableWord 32 w).isNone) = true := by decide

/-! ### QuadratureDecoder -/

/-- V-Q17. -/
theorem test_qdInit_rate : (after (.qdInit 0b00) live).tmrRate = some .khz1 ∧
    (after (.qdInit 0b00) live).enc = live.enc := by decide

/-- V-F3. -/
theorem test_qdInit_badRate : (after (.qdInit 0b11) live).fault = some .badRate := by decide

/-- V-Q15. -/
theorem test_qdAttach_again :
    (after (.qdAttach 0 0x05) (withSlot ⟨true, some 1, 3, 7, .pos, 2, false⟩)).enc.e0 =
      ⟨true, some 0x05, 0, 0, .zero, 0, false⟩ := by decide

/-- V-Q16. -/
theorem test_qdAttach_inverted : (after (.qdAttach 1 0x23) live).enc.e1 = ⟨true, some 0x23, 0, 0, .zero, 0, true⟩ := by
  decide

/-- V-Q2b, tick 3: PPR 256, wrap downward. -/
theorem test_qdTick_wraps_down :
    (after (.qdTick 0 0b00) (withCfg 256 3 (withSlot ⟨true, some 1, 1, 0, .zero, 0, false⟩))).enc.e0 =
      ⟨true, some 1, 3, 255, .neg, 3, false⟩ := by decide

/-- V-Q8, tick 8: the hold runs out. -/
theorem test_qdTick_clears_direction :
    (after (.qdTick 0 0b11) (withSlot ⟨true, some 1, 0, 2, .pos, 1, false⟩)).enc.e0 =
      ⟨true, some 1, 0, 2, .zero, 0, false⟩ := by decide

/-- V-Q14. -/
theorem test_timerIrq_samples : (after (.timerIrq 0b11 0b01) live).enc.e0.fsm = 2 ∧
    (after (.timerIrq 0b11 0b01) live).enc.e1.fsm = 0 := by decide

/-- V-Q13: the unattached slot is skipped without a fault. -/
theorem test_timerIrq_skips :
    let s := { live with enc := ⟨restSlot false, EncSlot.reset⟩ }
    (after (.timerIrq 0b01 0b01) s).enc.e1 = EncSlot.reset ∧ (after (.timerIrq 0b01 0b01) s).fault = none ∧
      (after (.timerIrq 0b01 0b01) s).enc.e0.fsm = 2 := by decide

/-- The row pos 23, dir -1, inv 1 of 95_test_vectors.md section 2.5. -/
theorem test_qdGetdir : (after (.qdGetdir 0) (withSlot ⟨true, some 1, 0, 23, .neg, 3, true⟩)).result = .byte 0x01 := by
  decide
theorem test_qdGetpos : (after (.qdGetpos 0) (withSlot ⟨true, some 1, 0, 23, .neg, 3, true⟩)).result = .byte 0xE8 := by
  decide

/-- V-F2. -/
theorem test_qdGetdir_notAttached : (after (.qdGetdir 0) State.reset).fault = some .notAttached := by decide

/-- V-F1. -/
theorem test_qdGetpos_badId : (after (.qdGetpos 2) live).fault = some .badEncoderId := by decide

/-! ### Buttons and composer -/

/-- 41_buttons.md R77. -/
theorem test_btnInit : (after .btnInit live).pinmode = .inputPullup := by decide

/-- V-B5. -/
theorem test_btnRead : (after (.btnRead 0xA5A) live).frame = some 0x5A5 ∧
    (after (.btnRead 0xA5A) live).pinmode = .inputPullup := by decide

/-- 41_buttons.md R79. -/
theorem test_pinsOutput : (after .pinsOutput { live with pinmode := .inputPullup }).pinmode = .output := by decide

/-- The port-assembly rows of 95_test_vectors.md section 2.6. -/
theorem test_ports : rawLevels .low 0xFE 0x07 = 0x7FE ∧ rawLevels .high 0xFE 0x7F = 0x7FE ∧
    rawLevels .low 0xFE 0xF0 = 0x0FE ∧ rawLevels .high 0xFE 0xF0 = 0xFFE := by decide

/-- V-C16. -/
theorem test_cmpLatchdir :
    (after (.cmpLatchdir 0) (withSlot ⟨true, some 1, 0, 1, .pos, 3, true⟩)).d = ⟨some .neg, some .zero⟩ := by decide

/-- V-C18. -/
theorem test_cmpLatchdir_notAttached :
    (after (.cmpLatchdir 1) { live with enc := ⟨restSlot false, EncSlot.reset⟩ }).fault = some .notAttached := by decide

/-- V-C9: every button and both fallback bits. -/
theorem test_cmpPublish :
    (after .cmpPublish { live with frame := some 0xFFF, d := ⟨some .pos, some .neg⟩ }).outw = some 0x0060 := by decide

/-- V-C20. -/
theorem test_cmpPublish_unwritten :
    after .cmpPublish { live with frame := none } = faulted (.unwritten .frame) { live with frame := none } := by decide

/-! ### PS/2 -/

/-- V-P9. -/
theorem test_ps2Init : (after .ps2Init { live with ps2Step := 3 }).ps2Step = 0 ∧
    (after .ps2Init { live with ps2Step := 3 }).tx = some 0x99 := by decide

/-- V-P3. -/
theorem test_ps2Init_usbOnly :
    (after .ps2Init { live with inst := { exampleInst with cfg := { exampleCfg with deviceComm := .usbOnly } } }).ps2En =
      false := by decide

/-- V-P7: the high byte, masked. -/
theorem test_ps2Rx_high : (after (.ps2Rx 0x00) { atStep 3 0xFF with outw := some 0x1234 }).tx = some 0xED := by decide

/-- V-P2. -/
theorem test_ps2Rx_disabled : (after (.ps2Rx 0x01) State.reset).trace = [] := by decide

/-- V-P4. -/
theorem test_ps2Xchg : (after (.ps2Xchg 0x42) { atStep 1 0x00 with tx := some 0x41 }).result = .byte 0x41 ∧
    (after (.ps2Xchg 0x42) { atStep 1 0x00 with tx := some 0x41 }).trace = [.xchg 0x42 0x41, .active, .ack] := by decide

/-- The row (4, 0x01, 0xFF) of 95_test_vectors.md section 2.7. -/
theorem test_pollHeader : (after .pollHeader (atStep 4 0xFF)).tx = some 0xBE ∧
    (after .pollHeader (atStep 4 0xFF)).ps2Step = 1 := by decide

/-- The row (1, 0x42, 0xFF). -/
theorem test_cmdMatch : (after .cmdMatch (atStep 1 0xFF)).tx = some 0xA5 ∧
    (after .cmdMatch (atStep 1 0xFF)).ps2Step = 2 := by decide

/-- The row (1, 0x43, 0x00). -/
theorem test_cmdMismatch : (after (.cmdMismatch 0x43) (atStep 1 0x00)).tx = none ∧
    (after (.cmdMismatch 0x43) (atStep 1 0x00)).trace = [.active] := by decide

/-- The rows (2, 0x42, 0x00) and (4, 0x00, 0xFF). -/
theorem test_data : (after (.data 0x42) (atStep 2 0x00)).tx = some 0xFF ∧ (after (.data 0x00) (atStep 4 0xFF)).tx = some 0x00 ∧
    (after (.data 0x00) (atStep 4 0xFF)).ps2Step = 5 := by decide

/-- The row (5, 0x43, 0x00). -/
theorem test_idle : (after (.idle 0x43) (atStep 5 0x00)).tx = some 0xFF ∧
    (after (.idle 0x43) (atStep 5 0x00)).trace = [.active] := by decide

/-! ### The step, faults and reset -/

/-- V-F14. -/
theorem test_step_illegal : next? (asked [.word 0x07000000]) = some (faulted (.illegalOp 0x07000000) live) := by decide

/-- V-F15: nothing steps once a fault stands. -/
theorem test_step_stuck : step (after (.qdGetpos 2) (asked [.word 0x10000000])) = .fault (.stuck .badEncoderId) := rfl

/-- A word and a byte placed by withFetchWord run as the very next step (log 5). -/
theorem test_fetch_runs : next? (State.reset.withFetchWord 32 0x02000123) = some (after (.qdAttach 1 0x23) State.reset) ∧
    next? ({ live with ps2Step := 5 }.withFetchWord 8 0x42) = some (after .cmdMatch { live with ps2Step := 1 }) := by
  decide

/-- V-F16 and the example instance passes both checks. -/
theorem test_reset : State.reset.fault = none ∧ State.reset.mphase = .bootQd ∧ State.reset.tx = none := by decide

/-- V-F5, V-F7 and V-F8: configuration faults, in the order of 60_exceptions.md R106. -/
theorem test_reset_badConfig :
    firstBadField { exampleInst with cfg := { exampleCfg with rotaryPPR := 257 } } = some .rotaryPPR ∧
    firstBadField { exampleInst with cfg := { exampleCfg with customMap := exampleCfg.customMap.set 5 16 } } =
      some .customMap ∧
    firstBadField { exampleInst with par := { exampleParams with maskTable := ⟨[], 0x0F⟩ } } = some .deviceType := by decide

/-- V-F9 and V-F10: ill-formed tables. -/
theorem test_reset_badTable :
    firstIllformed { exampleParams with qtable := defaultQTable.set 2 #v[0x16, 0x02, 0x00, 0x00] } = some (.qtable 2 0) ∧
    firstIllformed { exampleParams with qtable := defaultQTable.set 0 #v[0x33, 0x02, 0x01, 0x00] } = some (.qtable 0 0) := by
  decide

/-- V-F11, V-F12 and V-F13: event codes, fallback bits and forced bits. -/
theorem test_reset_badParameters :
    firstIllformed { exampleParams with evNeg := 0x1 } = some .evCodes ∧
    firstIllformed { exampleParams with fbNeg := ⟨4, 7⟩ } = some .fallbackBits ∧
    firstIllformed { exampleParams with profileForce := #v[1, 2, 4, 0, 0, 0, 0] } = some .profileForce := by decide

/-! ### Witnesses: states and operands that meet the hypotheses of each statement, clause by clause -/

theorem exampleTables_ok : TablesOk exampleParams := by
  refine ⟨fun r c t h => (entryOk_iff _ _).mp ((badEntry_eq_none_iff _).mp (by decide) r c t h), by decide, by decide,
    by decide, by decide, 0, 1, by decide, by decide, by decide, by decide⟩

theorem exampleCodes_ok : CodesOk exampleParams := by unfold CodesOk; decide

theorem exampleInst_ok : InstOk exampleInst := ⟨exampleTables_ok, exampleCodes_ok, by unfold CfgOk; decide⟩

/-- `live` meets the invariant, with any requests pending and no fault. -/
theorem asked_inv (rs : List Request) : BlockInv (asked rs) where
  inst_ok := exampleInst_ok
  slots i := by
    have h : SlotInv exampleInst 0 (restSlot false) ∧ SlotInv exampleInst 1 (restSlot true) := by
      constructor <;> constructor <;> decide
    match i with
    | 0 => exact h.1
    | 1 => exact h.2
  mask_fixed := by intro m h; cases h; rfl
  enabled := by intro _; exact ⟨by simp [asked, live], rfl⟩
  disabled := by intro h; cases h
  timer_rate := by simp [asked, live]
  booted_timer _ := rfl
  booted_slot0 _ := rfl
  booted_slot1 _ := rfl
  booted_session _ := by simp [asked, live]
  read_frame _ := by simp [asked, live]
  latched_d0 _ := by simp [asked, live]
  latched_d1 _ := by simp [asked, live]
  published := by intro h; exact absurd h (by simp [asked, live, MPhase.rank])

theorem witness_DecodeEncodeRoundTrip :
    (encode (.qdTick 0xFF 0b11) = .opWord 0x0300FF03 ∧ (Instr.qdTick 0xFF 0b11).wellFormed = true) ∧
    (encode (.cmdMismatch 0xFF) = .wireByte 0xFF ∧ (Instr.cmdMismatch 0xFF).wellFormed = true ∧
      (Instr.cmdMismatch 0xFF).wireAt 1 = true) := by decide

theorem witness_DecodedWordIsItsEncoding : decode 0x11000FFF = .ok (.btnRead 0xFFF) := by decide

theorem witness_LegalWordsAreTheTableRows :
    (∃ r ∈ operationRows, (0x0400000F : OpWord) &&& r.2 = r.1) ∧
    (∀ r ∈ operationRows, (0x33000000 : OpWord) &&& r.2 ≠ r.1) ∧
    ((asked [.word 0x33000000]).fault = none ∧ (asked [.word 0x33000000]).pending = [.word 0x33000000]) ∧
    ((asked [.word 0x01000003]).fault = none ∧ (asked [.word 0x01000003]).pending = [.word 0x01000003]) ∧
    (2 ≤ (2 : Byte).toNat ∧ encode (.cmpLatchdir 2) = .opWord 0x20000200 ∧
      (asked [.word 0x20000200]).pending = [.word 0x20000200]) :=
  ⟨by decide, by intro r hr; fin_cases hr <;> decide, ⟨rfl, rfl⟩, ⟨rfl, rfl⟩, by decide, by decide, rfl⟩

theorem witness_StepRunsTheDecodedWord : (asked [.word 0x30000000]).fault = none ∧
    (asked [.word 0x30000000]).pending = .word 0x30000000 :: [] ∧ decode 0x30000000 = .ok .ps2Init := by decide

/-- A byte pending at every step. -/
theorem witness_StepRunsTheWireClass (k : Fin 6) (b : Byte) :
    ({ atStep k 0 with pending := [.wire b] }).fault = none ∧ ({ atStep k 0 with pending := [.wire b] }).ps2Step = k ∧
    ({ atStep k 0 with pending := [.wire b] }).pending = .wire b :: [] := ⟨rfl, rfl, rfl⟩

/-- Any agent step pending, or none, with the wait for MAIN open, passed or going on. -/
theorem witness_StepRunsTheAgentsOperation (a : AgentStep) (k : Option Nat) :
    (asked [.agent a]).fault = none ∧ (asked [.agent a]).pending = .agent a :: [] ∧
    ({ asked [] with mainDue := k }).pending = [] ∧ ({ asked [] with mainDue := k }).mainDue = k :=
  ⟨rfl, rfl, rfl, rfl⟩

/-- Every phase, and both outcomes of its operation. -/
theorem witness_MainStepRunsItsPhase (p : MPhase) :
    let s := { asked [.agent (.main 0xFE 0x07)] with mphase := p }
    s.fault = none ∧ s.mphase = p ∧ s.pending = .agent (.main 0xFE 0x07) :: [] ∧
    (after .cmpPublish { s with pending := [] }).fault = none ∧
    (after .cmpPublish { s with pending := [], frame := none }).fault ≠ none := by
  cases p <;> decide

theorem witness_OperationsLeavePhaseAndInstance : ∃ t, exec .cmpPublish live = .next t := ⟨_, rfl⟩

theorem witness_InstanceIsConstant :
    ∃ t, steps 2 (asked [.agent (.bus 0x01), .agent (.timer ⟨true, true⟩ ⟨false, true⟩)]) = .next t := ⟨_, rfl⟩

theorem witness_TableWordRunsAsTheNextStep : live.fault = none ∧ State.reset.fault = none ∧
    decodeTableWord 32 0x21000000 = some .cmpPublish ∧ decodeTableWord 8 0x01 = some .pollHeader ∧
    decodeTableWord 8 0x42 = some .cmdMatch ∧ decodeTableWord 8 0xFF = some (.data 0xFF) := by decide

theorem witness_FaultsAreStickyAndStopTheBlock :
    (∃ t, exec (.qdGetpos 2) live = .next t ∧ live.fault = none ∧ t.fault ≠ none) ∧
    (∃ t, exec (.qdGetpos 2) { live with fault := some .badRate } = .next t) ∧
    ({ live with fault := some .badRate } : State).fault = some .badRate :=
  ⟨⟨_, rfl, by decide, by decide⟩, ⟨_, rfl⟩, rfl⟩

/-- Each code, and an operation whose checks pass. -/
theorem witness_FaultsRaisedExactly : live.fault = none ∧ State.reset.fault = none ∧
    (after (.qdInit 0b11) live).fault = some .badRate ∧ (after (.qdAttach 2 0) live).fault = some .badEncoderId ∧
    (after (.cmpLatchdir 0xFF) live).fault = some .badEncoderId ∧
    (after (.qdTick 1 0) State.reset).fault = some .notAttached ∧
    (after .cmpPublish State.reset).fault = some .unwritten ∧ (after .cmpPublish live).fault = none := by decide

theorem witness_EncoderIdsAreChecked : live.fault = none ∧ State.reset.fault = none ∧ 2 ≤ (2 : Byte).toNat ∧
    2 ≤ (0xFF : Byte).toNat ∧ (0 : Byte).toNat = (0 : EncId).val ∧ (1 : Byte).toNat = (1 : EncId).val ∧
    (State.reset.enc.get 0).attached = false ∧ (State.reset.enc.get 1).attached = false ∧
    (live.enc.get 0).attached = true ∧ (live.enc.get 1).attached = true := by decide

/-- Each shared element is changed by some operation: of a slot, by QD_ATTACH what it alone writes, and the rest by a tick. -/
theorem witness_SharedStateHasItsWriters :
    (let x := ((after (.qdAttach 1 0x23) State.reset).enc.get 1)
     x.attached ≠ (State.reset.enc.get 1).attached ∧ x.pinpair ≠ (State.reset.enc.get 1).pinpair ∧
       x.inv ≠ (State.reset.enc.get 1).inv) ∧
    (let s := withSlot ⟨true, some 1, 1, 0, .zero, 0, false⟩
     let x := (after (.qdTick 0 0b00) s).enc.get 0
     x.fsm ≠ (s.enc.get 0).fsm ∧ x.pos ≠ (s.enc.get 0).pos ∧ x.dir ≠ (s.enc.get 0).dir ∧ x.hold ≠ (s.enc.get 0).hold) ∧
    ((after (.timerIrq 0b01 0b01) live).enc.get 1).fsm ≠ (live.enc.get 1).fsm ∧ (after (.qdInit 0) live).tmrRate ≠ live.tmrRate ∧
    (after .btnInit live).pinmode ≠ live.pinmode ∧ (after (.btnRead 0) live).frame ≠ live.frame ∧
    (after (.cmpLatchdir 0) { live with d := ⟨none, none⟩ }).d ≠ ⟨none, none⟩ ∧
    (after .cmpPublish { live with outw := none }).outw ≠ none ∧
    (after .ps2Init { live with ps2En := false }).ps2En ≠ false ∧
    (after .ps2Init { live with ps2En := false, ps2Step := 1 }).ps2Step ≠ 1 ∧
    (after (.data 0) live).ps2Step ≠ live.ps2Step ∧ (after (.ps2Xchg 0) live).tx ≠ live.tx := by decide

theorem witness_TraceOnlyGrows : .xchg 0x01 0x99 ∈ (after (.ps2Xchg 0x01) live).trace ∧
    .active ∈ (after (.ps2Xchg 0x01) live).trace ∧ .ack ∈ (after (.ps2Xchg 0x01) live).trace ∧
    live.fault = none ∧ live.trace = [] ∧
    .fault (.badEncoderId 2) ∈ (after (.qdGetdir 2) live).trace := by decide

theorem witness_ResetValues : InstOk exampleInst := exampleInst_ok

/-- An ill-formed table, an illegal stored code, and each side of the configuration's bounds. -/
theorem witness_ResetRejectsIllegalInstances :
    InstOk exampleInst ∧
    ¬ TablesOk { exampleParams with evNeg := 0x1 } ∧ ¬ CodesOk { exampleParams with sentinelCode := 15 } ∧
    (TablesOk exampleParams ∧ CodesOk exampleParams ∧
      ¬ CfgOk { exampleInst with cfg := { exampleCfg with rotaryHold := 256 } }) ∧
    (256 < ({ exampleCfg with rotaryPPR := 257 } : Cfg).rotaryPPR ∧ ({ exampleCfg with rotaryPPR := 0 } : Cfg).rotaryPPR = 0) := by
  refine ⟨exampleInst_ok, fun h => absurd rfl h.2.2.2.1, ?_, ⟨exampleTables_ok, exampleCodes_ok, ?_⟩, by decide⟩
  · unfold CodesOk; decide
  · unfold CfgOk; decide

theorem witness_ResetMeetsTheInvariant : InstOk exampleInst := exampleInst_ok

theorem witness_EveryStepKeepsTheInvariant :
    BlockInv (asked [.agent (.main 0 0)]) ∧ ∃ t, step (asked [.agent (.main 0 0)]) = .next t :=
  ⟨asked_inv _, _, rfl⟩

theorem witness_QdInitStartsTheTimer : live.fault = none := rfl

theorem witness_QdAttachCreatesTheSlot : (0 : Byte).toNat = (0 : EncId).val ∧ (1 : Byte).toNat = (1 : EncId).val ∧
    2 ≤ (2 : Byte).toNat ∧ live.fault = none := by decide

/-- The bounds of the FSM state, PPR and hold, and a table entry of each kind: EV_POS, EV_NEG, no event. -/
theorem witness_QdTickAdvancesTheSlot :
    let s := withCfg 1 0 (withSlot ⟨true, some 1, 4, 0, .zero, 0, false⟩)
    let u := withCfg 256 255 (withSlot ⟨true, some 1, 5, 255, .pos, 1, false⟩)
    (0 : Byte).toNat = (0 : EncId).val ∧
    ((s.enc.get 0).attached = true ∧ (s.enc.get 0).fsm.toNat ≤ 5 ∧ s.inst.par.evPos ≠ s.inst.par.evNeg ∧
      qentry s.inst.par 4 3 = some 0x10) ∧
    ((u.enc.get 0).attached = true ∧ (u.enc.get 0).fsm.toNat = 5 ∧ u.inst.cfg.rotaryPPR = 256 ∧
      u.inst.cfg.rotaryHold = 255 ∧ qentry u.inst.par 5 3 = some 0x20 ∧ qentry u.inst.par 5 1 = some 0x05) := by decide

theorem witness_TimerIrqTicksTheAttachedSlots : live.tmrEn = true ∧ State.reset.tmrEn = false := by decide

/-- Both encoders, every direction, inverted and not; a position at the end of its range. -/
theorem witness_AccessorsReadThroughTheInversion (d : Dir) (inv : Bool) :
    let s := withSlot ⟨true, some 1, 0, 23, d, 0, inv⟩
    (0 : Byte).toNat = (0 : EncId).val ∧ (s.enc.get 0).attached = true ∧ (s.enc.get 0).dir = d ∧ (s.enc.get 0).inv = inv ∧
      (s.enc.get 0).pos.toNat < 24 ∧ (s.enc.get 1).attached = true := by
  cases d <;> cases inv <;> decide

theorem witness_PositionStaysBelowPpr :
    let s := withCfg 1 3 live
    let u := withCfg 256 3 (withSlot ⟨true, some 1, 2, 255, .zero, 0, false⟩)
    ((s.enc.get 0).attached = true ∧ s.inst.cfg.rotaryPPR = 1 ∧ (s.enc.get 0).pos.toNat < 1) ∧
    ((u.enc.get 0).attached = true ∧ u.inst.cfg.rotaryPPR = 256 ∧ (u.enc.get 0).pos.toNat < 256) := by decide

theorem witness_DecodingIsDeterministic : live.inst = State.reset.inst := rfl

theorem witness_BounceGivesAtMostOneDetent :
    live.inst.par.qtable = defaultQTable ∧ live.inst.par.evPos = 1 ∧ live.inst.par.evNeg = 2 ∧
    ((withSlot ⟨true, some 1, 5, 0, .zero, 0, false⟩).enc.get 0).attached = true ∧
    ((withSlot ⟨true, some 1, 5, 0, .zero, 0, false⟩).enc.get 0).fsm.toNat ≤ 5 ∧ Adjacent 0b01 0b00 ∧ Adjacent 0b01 0b11 := by
  unfold Adjacent; decide

/-- The hold at 1 and at 255, with as many ticks without a detent as the first needs, and one fewer. -/
theorem witness_HoldKeepsTheDirectionForItsTicks :
    let s := withSlot ⟨true, some 1, 0, 7, .pos, 1, false⟩
    let u := withSlot ⟨true, some 1, 0, 7, .neg, 255, false⟩
    (s.enc.get 0).attached = true ∧ s.inst.par.evPos ≠ 0 ∧ s.inst.par.evNeg ≠ 0 ∧ (s.enc.get 0).hold.toNat = 1 ∧
    detents 0 [0b11] s = 0 ∧ detents 0 [] s = 0 ∧ (u.enc.get 0).hold.toNat = 255 ∧ detents 0 [0b11, 0b11] u = 0 := by
  decide

theorem witness_ReadPhaseSamplesThePorts :
    let s := { asked [.agent (.main 0xFE 0x07)] with mphase := .read }
    s.fault = none ∧ s.mphase = .read ∧ s.pending = .agent (.main 0xFE 0x07) :: [] := ⟨rfl, rfl, rfl⟩

theorem witness_UnmappedCustomComposesToOnes : ∀ i : Fin 12, (Vector.replicate 12 none : Mapping)[i] = none := by
  intro i; simp

theorem witness_SingleButtonComposes : identityMapping[(0 : Fin 12)] = some 0 := by decide

/-- The first and the last profile, and the custom map with a sentinel entry and its bounds. -/
theorem witness_ActiveMappingFollowsButtonMap :
    (∀ c ∈ [(0 : Byte), 6, 0xF1], InstOk { exampleInst with cfg := { exampleCfg with buttonMap := c } }) ∧
    (6 : Byte).toNat = (6 : Fin 7).val ∧ exampleCfg.buttonMap = exampleParams.customCode ∧
    exampleCfg.customMap[0].toNat = (0 : BitVec 4).toNat ∧ exampleCfg.customMap[11].toNat = (15 : BitVec 4).toNat ∧
    (let I : Inst := { exampleInst with cfg := { exampleCfg with customMap := exampleCfg.customMap.set 5 0xF0 } }
     InstOk I ∧ I.cfg.customMap[5] = I.par.sentinelCode) := by
  refine ⟨fun c hc => ⟨exampleTables_ok, exampleCodes_ok, ?_⟩, by decide, by decide, by decide, by decide,
    ⟨exampleTables_ok, exampleCodes_ok, ?_⟩, by decide⟩
  · simp only [List.mem_cons, List.not_mem_nil, or_false] at hc
    rcases hc with rfl | rfl | rfl <;> (unfold CfgOk; decide)
  · unfold CfgOk; decide

theorem witness_LatchTakesTheVisibleDirection :
    (0 : Byte).toNat = (0 : EncId).val ∧ (1 : Byte).toNat = (1 : EncId).val ∧ (live.enc.get 0).attached = true ∧
    (live.enc.get 1).attached = true ∧ (live.enc.get 0).inv = false ∧ (live.enc.get 1).inv = true := by decide

theorem witness_PublishWritesTheComposedWord :
    (live.frame = some 0xF00 ∧ live.d.e0 = some .zero ∧ live.d.e1 = some .zero) ∧
    (live.fault = none ∧ ({ live with frame := none } : State).frame = none) ∧
    (live.frame ≠ none ∧ ({ live with d := ⟨none, some .pos⟩ } : State).d.e0 = none) ∧
    (live.d.e0 ≠ none ∧ ({ live with d := ⟨some .pos, none⟩ } : State).d.e1 = none) := by decide

theorem witness_BootReachesTheLoop : InstOk exampleInst := exampleInst_ok

theorem witness_MainIterationPublishes :
    let s := { asked ((List.range 5).map fun _ => .agent (.main 0xFE 0x07)) with mphase := .read }
    s.fault = none ∧ s.mphase = .read ∧ s.enc.e0.attached = true ∧ s.enc.e1.attached = true ∧
    s.pending = .agent (.main 0xFE 0x07) :: ((List.range 4).map fun _ => .agent (.main 0xFE 0x07)) ++ [] := by decide

/-- An agent step that completes, and an accessor on a slot that does not exist. -/
theorem witness_AgentsFaultOnlyThroughAccessors :
    BlockInv (asked [.agent (.getPos 2)]) ∧ (asked [.agent (.getPos 2)]).fault = none ∧
    (asked [.agent (.getPos 2)]).pending = .agent (.getPos 2) :: [] ∧
    ((next? (asked [.agent (.getPos 2)])).map State.fault) = some (some .badEncoderId) :=
  ⟨asked_inv _, rfl, rfl, by decide⟩

/-- A wait of no step and of none left after two requests: the next step is MAIN's. -/
theorem witness_MainIsWeaklyFair :
    let s := { live with mainDue := some 0, pending := [.agent (.timer ⟨true, true⟩ ⟨true, true⟩), .agent (.bus 0x01)] }
    s.mainDue = some 0 ∧ ∃ t, steps (s.pending.length + 0) s = .next t ∧ t.fault = none ∧ takesMain t = true :=
  ⟨rfl, _, rfl, rfl, rfl⟩

/-- Eight MAIN steps from the first phase, with a TIMER step among them. -/
theorem witness_EightMainStepsReachPublish :
    let m : Request := .agent (.main 0 0)
    let s := { asked [m, m, m, .agent (.timer ⟨true, true⟩ ⟨true, true⟩), m, m, m, m, m] with mphase := .bootQd }
    ∃ t, steps 9 s = .next t ∧ t.fault = none ∧ 8 ≤ mainSteps 9 s := by
  refine ⟨_, rfl, rfl, by decide⟩

theorem witness_DisabledEmulatorIgnoresBytes : State.reset.ps2En = false := rfl

theorem witness_HeaderRestartsThePoll : live.ps2En = true ∧ live.mask = some 0x00 := ⟨rfl, rfl⟩

theorem witness_CommandByteIsChecked : (atStep 1 0xFF).ps2En = true ∧ (atStep 1 0xFF).mask = some 0xFF ∧
    (atStep 1 0xFF).ps2Step = 1 ∧ (0x43 : Byte) ≠ 0x01 ∧ (0x43 : Byte) ≠ 0x42 := by decide

/-- Every step of the four, with a published word. -/
theorem witness_DataStepsReply (k : Fin 6) : (atStep k 0xFF).ps2En = true ∧ (atStep k 0xFF).mask = some 0xFF ∧
    (atStep k 0xFF).ps2Step = k ∧ (atStep k 0xFF).outw = some 0x0FFF ∧ (0x42 : Byte) ≠ 0x01 :=
  ⟨rfl, rfl, rfl, rfl, by decide⟩

theorem witness_UnpublishedWordRepliesAFreeByte :
    let s := fun k => { atStep k 0xFF with outw := none }
    (∀ k, (s k).ps2En = true ∧ (s k).mask = some 0xFF ∧ (s k).outw = none) ∧ (s 2).ps2Step = 2 ∧ (s 3).ps2Step = 3 := by
  exact ⟨fun _ => ⟨rfl, rfl, rfl⟩, rfl, rfl⟩

theorem witness_IdleStepSendsUnacknowledgedFiller : (atStep 5 0x00).ps2En = true ∧ (atStep 5 0x00).mask = some 0x00 ∧
    (atStep 5 0x00).ps2Step = 5 ∧ (0x42 : Byte) ≠ 0x01 := by decide

theorem witness_StepSaturatesAtIdle : live.ps2En = true ∧ ∀ b ∈ [(0x42 : Byte), 0x00], b ≠ 0x01 := by decide

theorem witness_ExchangeShiftsOutTheLoadedReply :
    live.ps2En = true ∧ live.tx = some 0x99 ∧ ({ live with tx := none } : State).tx = none := ⟨rfl, rfl, rfl⟩

theorem witness_FullPollReplies :
    let s := asked ([0x01, 0x42, 0x00, 0x00, 0x00, 0x00].map fun b => .agent (.bus b))
    s.fault = none ∧ s.ps2En = true ∧ s.mask = some 0x00 ∧ s.outw = some 0x0FFF ∧
    s.pending = [0x01, 0x42, 0x00, 0x00, 0x00, 0x00].map (fun b => .agent (.bus b)) ++ [] := by decide

theorem witness_PublishInsideAPollMixesBytes :
    let s := { atStep 2 0x00 with
      pending := [.agent (.bus 0x00), .word 0x21000000, .agent (.bus 0x00), .agent (.bus 0x00)] }
    s.fault = none ∧ s.ps2En = true ∧ s.mask = some 0x00 ∧ s.ps2Step = 2 ∧ s.outw = some 0x0FFF ∧ s.frame = some 0xF00 ∧
    s.d.e0 = some .zero ∧ s.d.e1 = some .zero := by decide

end Sys2Proof.Tests
end

section
/-! The step of an agent: the operation it runs when its request is the oldest, and the free choice of an agent when
nothing is pending (O7). -/

namespace Sys2Proof.Machine

/-- A request for an agent's step runs that agent on the state without the request. -/
theorem step_of_agent {s : State} {a : AgentStep} {rest : List Request} (hf : s.fault = none)
    (hp : s.pending = .agent a :: rest) : step s = runAgent a { s with pending := rest } :=
  step_of_pending hf hp

/-- Every agent but MAIN leaves the state as its operation left it. -/
theorem afterAgent_of_not_main {a : AgentStep} (h : isMain a = false) (s : State) : afterAgent a s = s := by
  cases a with
  | main p1 p2 => cases h
  | _ => rfl

/-- Every agent but MAIN does nothing beside its operation. -/
theorem runAgent_of_not_main {a : AgentStep} (h : isMain a = false) (s : State) :
    runAgent a s = exec (agentInstr s a) s := by
  rw [runAgent_eq, afterAgent_of_not_main h, exec_eq_next_after]

/-- A request of TIMER, BUS or ENV runs the agent's operation, and nothing else, on the state without the request. -/
theorem step_of_agent_of_not_main {s : State} {a : AgentStep} {rest : List Request} (hf : s.fault = none)
    (hp : s.pending = .agent a :: rest) (h : isMain a = false) :
    step s = exec (agentInstr { s with pending := rest } a) { s with pending := rest } := by
  rw [step_of_agent hf hp, runAgent_of_not_main h]

/-- With nothing pending the step is that of a request for the agent the free choice names, the draw counted and MAIN's
wait set. -/
theorem step_of_idle_eq_step_of_request {s : State} (hf : s.fault = none) (hp : s.pending = []) :
    step s = step { s with
      pending := [.agent (freeChoice s).1], draws := s.draws + 1, mainDue := (freeChoice s).2 } := by
  rw [step_of_idle hf hp, takeChoice_eq, hp]
  refine Eq.symm (step_of_agent ?_ rfl)
  exact hf

/-- Where no step is left to wait, the free choice is MAIN, and the next wait is open. -/
theorem freeChoice_of_due {s : State} (h : s.mainDue = some 0) :
    isMain (freeChoice s).1 = true ∧ (freeChoice s).2 = none := by
  simp [freeChoice, h, isMain]

/-- The free choice takes one step off MAIN's wait. -/
theorem freeChoice_of_waiting {s : State} {n : Nat} (h : s.mainDue = some (n + 1)) : (freeChoice s).2 = some n := by
  simp [freeChoice, h]

end Sys2Proof.Machine

open Sys2Proof.Machine in
/-- Settles O7: a request runs the operation that `agentInstr` names for its agent, and with nothing pending the step is
that of a request for the free choice. -/
theorem stepRunsTheAgentsOperation : Obligations.StepRunsTheAgentsOperation := by
  intro s rest hf
  refine ⟨fun p1 p0 hp => ?_, fun b hp => ?_, fun e hp => ?_, fun e hp => ?_, fun hp => ?_, fun hp => ?free⟩
  case free =>
    exact ⟨_, _, step_of_idle_eq_step_of_request hf hp, freeChoice_of_due, fun _ => freeChoice_of_waiting⟩
  all_goals exact step_of_agent_of_not_main hf hp rfl
end

section
/-! Everything an operation can leave, said once: a raised fault, or one of a few writes. -/

namespace Sys2Proof.Machine

/-! ### The operations that check an operand -/

/-- Everything QD_INIT can do (40_quadrature.md R65). -/
theorem qdInit_cases (rate : BitVec 2) (s : State) :
    (∃ r, rateOfCode rate = some r ∧
        qdInit rate s = { s with tmrEn := true, tmrRate := some r, result := .none }) ∨
      (rateOfCode rate = none ∧ qdInit rate s = raise (.badRate rate) s) := by
  rcases h : rateOfCode rate with _ | r
  · exact .inr ⟨rfl, by simp [qdInit, h]⟩
  · exact .inl ⟨r, rfl, by simp [qdInit, h, returning, setTimer]⟩

theorem qdAttach_of_some {e : Byte} {j : EncId} (h : encId? e = some j) (p : Byte) (s : State) :
    qdAttach e p s = { s with enc := s.enc.set j (attachedSlot s.inst j p), result := .none } := by
  rw [qdAttach, checkId_of_some h]; rfl

/-! ### The writes -/

/-- What an operation can do to slot `j` holding `x`: keep it, tick it while it is attached, or attach it anew. -/
inductive SlotEffect (I : Inst) (j : EncId) (x : EncSlot) : EncSlot → Prop
  | kept : SlotEffect I j x x
  | ticked (smp : Sample) (ha : x.attached = true) : SlotEffect I j x (tickSlot I smp x)
  | attached (p : Byte) : SlotEffect I j x (attachedSlot I j p)

/-- The events of an enabled reception by operation `i` (43_ps2.md R88 to R90): ACTIVE, perhaps ACK, and before them the
XCHG of an exchange, with its byte. -/
def ReceptionEvents (i : Instr) (l : List Event) : Prop :=
  ∃ pre, (pre = [] ∨ ∃ b miso, i = .ps2Xchg b ∧ pre = [.xchg b miso]) ∧
    (l = pre ++ [.active] ∨ l = pre ++ [.active, .ack])

/-- What operation `i` can leave of the state `s`. `returned` is also the reception of a byte while the emulator is
disabled. -/
inductive Effect (i : Instr) (s : State) : State → Prop
  | raised (c : FaultCause) : Effect i s (raise c s)
  | returned (r : OpResult) (n : Nat) : Effect i s { s with result := r, draws := n }
  | timer (r : TickRate) : Effect i s { s with tmrEn := true, tmrRate := some r, result := .none }
  | slots (enc : PerEnc EncSlot) (h : ∀ j, SlotEffect s.inst j (s.enc.get j) (enc.get j)) :
      Effect i s { s with enc := enc, result := .none }
  | pins (m : PinMode) : Effect i s { s with pinmode := m, result := .none }
  | frame (m : PinMode) (f : Frame) (r : OpResult) : Effect i s { s with pinmode := m, frame := some f, result := r }
  | latch (j : EncId) (v : Dir) : Effect i s { s with d := s.d.set j (some v), result := .none }
  | word (w : OutWord) : Effect i s { s with outw := some w, result := .none }
  | session : Effect i s
      { s with
        mask := some (maskOf s.inst.par s.inst.cfg.deviceType)
        ps2En := s.inst.cfg.deviceComm == .usbPs2
        ps2Step := 0
        result := .none }
  | received (k : Fin 6) (v : Option Byte) (l : List Event) (n : Nat) (r : OpResult) (hr : receives i = true)
      (he : s.ps2En = true) (hl : ReceptionEvents i l) :
      Effect i s { s with ps2Step := k, tx := v, trace := s.trace ++ l, draws := n, result := r }

/-! ### Every operation has one of these effects -/

theorem SlotEffect.set {s : State} {j : EncId} {y : EncSlot} (h : SlotEffect s.inst j (s.enc.get j) y) (k : EncId) :
    SlotEffect s.inst k (s.enc.get k) ((s.enc.set j y).get k) := by
  rw [PerEnc.get_set]
  split_ifs with hk
  · subst hk; exact h
  · exact .kept

/-- An operation behind `check_attached` has an effect if it has one on every attached slot. -/
theorem Effect.of_checkAttached {i : Instr} {e : Byte} {s : State} {k : EncId → State}
    (h : ∀ j, (s.enc.get j).attached = true → Effect i s (k j)) : Effect i s (checkAttached e s k) := by
  rcases checkAttached_cases e s k with ⟨j, -, ha, hk⟩ | ⟨c, -, hk⟩ <;> rw [hk]
  · exact h j ha
  · exact .raised c

theorem qdInit_effect (i : Instr) (rate : BitVec 2) (s : State) : Effect i s (qdInit rate s) := by
  rcases qdInit_cases rate s with ⟨r, -, h⟩ | ⟨-, h⟩ <;> rw [h]
  · exact .timer r
  · exact .raised _

theorem qdAttach_effect (i : Instr) (e p : Byte) (s : State) : Effect i s (qdAttach e p s) := by
  rcases h : encId? e with _ | j
  · rw [qdAttach, checkId_of_none h]; exact .raised _
  · rw [qdAttach_of_some h]; exact .slots _ (SlotEffect.attached p).set

theorem qdTick_effect (i : Instr) (e : Byte) (smp : Sample) (s : State) : Effect i s (qdTick e smp s) :=
  .of_checkAttached fun _ ha => .slots _ (SlotEffect.ticked smp ha).set

/-- A slot ticked if it is attached. -/
theorem slotEffect_ite_tick (I : Inst) (j : EncId) (smp : Sample) (x : EncSlot) :
    SlotEffect I j x (if x.attached then tickSlot I smp x else x) := by
  split_ifs with ha
  · exact .ticked smp ha
  · exact .kept

theorem timerIrq_effect (i : Instr) (s1 s0 : Sample) (s : State) : Effect i s (timerIrq s1 s0 s) := by
  rw [timerIrq_eq]
  refine .slots _ ?_
  by_cases ht : s.tmrEn = true
  · rw [if_pos ht]
    exact EncId.forall_iff.mpr ⟨slotEffect_ite_tick .., slotEffect_ite_tick ..⟩
  · rw [if_neg ht]
    exact fun _ => .kept

theorem cmpPublish_effect (i : Instr) (s : State) : Effect i s (cmpPublish s) := by
  rcases cmpPublish_cases s with ⟨f, d0, d1, -, -, -, h⟩ | ⟨-, h⟩ | ⟨-, -, h⟩ | ⟨-, -, -, h⟩ <;> rw [h]
  · exact .word _
  all_goals exact .raised _

/-- The reception of a byte, by PS2_RX or as one of the wire classes. -/
theorem ps2Rx_effect {i : Instr} (hi : receives i = true) (b : Byte) (s : State) : Effect i s (ps2Rx b s) := by
  obtain ⟨k, v, l, n, h, hd, he⟩ := ps2Rx_frame b s
  rw [h]
  rcases Bool.eq_false_or_eq_true s.ps2En with hs | hs
  · exact .received k v l n _ hi hs ⟨[], .inl rfl, (he hs).2⟩
  · obtain ⟨rfl, rfl, rfl, rfl⟩ := hd hs
    simpa using Effect.returned (i := i) (s := s) .none s.draws

theorem ps2Xchg_effect (b : Byte) (s : State) : Effect (.ps2Xchg b) s (ps2Xchg b s) := by
  obtain ⟨k, v, l, n, r, h, hd, he⟩ := ps2Xchg_frame b s
  rw [h]
  rcases Bool.eq_false_or_eq_true s.ps2En with hs | hs
  · obtain ⟨-, miso, hl⟩ := he hs
    exact .received k v l n r rfl hs ⟨[.xchg b miso], .inr ⟨b, miso, rfl, rfl⟩, hl⟩
  · obtain ⟨rfl, rfl, rfl⟩ := hd hs
    simpa using Effect.returned (i := .ps2Xchg b) (s := s) r n

/-- Every operation leaves one of the effects. -/
theorem after_effect (i : Instr) (s : State) : Effect i s (after i s) := by
  cases i with
  | qdInit rate => exact qdInit_effect _ rate s
  | qdAttach e p => exact qdAttach_effect _ e p s
  | qdTick e smp => exact qdTick_effect _ e smp s
  | timerIrq s1 s0 => exact timerIrq_effect _ s1 s0 s
  | qdGetdir e => exact .of_checkAttached fun _ _ => .returned _ s.draws
  | qdGetpos e => exact .of_checkAttached fun _ _ => .returned _ s.draws
  | btnInit => exact .pins .inputPullup
  | btnRead lv => exact .frame .inputPullup _ _
  | pinsOutput => exact .pins .output
  | cmpLatchdir e => exact .of_checkAttached fun j _ => .latch j _
  | cmpPublish => exact cmpPublish_effect _ s
  | ps2Init => exact .session
  | ps2Xchg b => exact ps2Xchg_effect b s
  | ps2Rx b => exact ps2Rx_effect rfl b s
  | pollHeader => exact ps2Rx_effect rfl _ s
  | cmdMatch => exact ps2Rx_effect rfl _ s
  | cmdMismatch b => exact ps2Rx_effect rfl b s
  | data b => exact ps2Rx_effect rfl b s
  | idle b => exact ps2Rx_effect rfl b s

/-- No operation changes the parameters or the configuration (10_state.md R17, R18). -/
theorem Effect.inst_eq {i : Instr} {s t : State} (h : Effect i s t) : t.inst = s.inst := by
  cases h <;> rfl

/-- No operation changes the MAIN phase (42_composer.md R84). -/
theorem Effect.mphase_eq {i : Instr} {s t : State} (h : Effect i s t) : t.mphase = s.mphase := by
  cases h <;> rfl

end Sys2Proof.Machine
end

section
/-! The block invariant is kept by every step (O20): every effect of an operation keeps it, and MAIN's phase advances only
over an operation that wrote what the next phases need. -/

namespace Sys2Proof.Machine

/-! ### Slots (10_state.md R22) -/

/-- In a legal table the FSM state stays at most 5: its row exists, and every entry's next field is at most 5. -/
theorem nextField_stateByte_le {p : Params} (hp : TablesOk p) {fsm : Nibble} (h : fsm.toNat ≤ 5) (smp : Sample) :
    (nextField (stateByte p fsm smp)).toNat ≤ 5 := by
  obtain ⟨t, ht⟩ := qentry_isSome (p := p) (r := fsm.toNat) (c := smp.toNat) (by omega) (by omega)
  rw [stateByte, ht]
  exact (hp.1 _ _ _ ht).1

theorem slotInv_reset {I : Inst} (h : InstOk I) (i : EncId) : SlotInv I i EncSlot.reset where
  fsm_le := by decide
  pos_lt := h.cfg.1.1
  hold_le := Nat.zero_le _
  dir_held _ hd := absurd rfl hd
  inv_latched ha := by cases ha
  unattached _ := rfl

theorem slotInv_attachedSlot {I : Inst} (h : InstOk I) (i : EncId) (p : Byte) : SlotInv I i (attachedSlot I i p) where
  fsm_le := by simp [attachedSlot]
  pos_lt := h.cfg.1.1
  hold_le := Nat.zero_le _
  dir_held _ hd := absurd rfl hd
  inv_latched _ := rfl
  unattached ha := by cases ha

/-- A detent keeps the invariant of an attached slot (R68): its position is taken modulo PPR and its hold is loaded. -/
theorem SlotInv.detent {I : Inst} {i : EncId} {x : EncSlot} (hI : InstOk I) (h : SlotInv I i x)
    (ha : x.attached = true) (δ : Dir) : SlotInv I i (detent I δ x) := by
  obtain ⟨⟨hp1, hp2⟩, hh, -⟩ := hI.cfg
  have hload : (holdLoad I.cfg.rotaryHold).toNat = I.cfg.rotaryHold := holdLoad_toNat hh
  exact {
    fsm_le := h.fsm_le
    pos_lt := positionAfter_lt hp1 hp2 x.pos δ
    hold_le := hload.le
    dir_held := fun h1 _ h0 => by
      have : (holdLoad I.cfg.rotaryHold).toNat = 0 := congrArg BitVec.toNat h0
      omega
    inv_latched := h.inv_latched
    unattached := fun hu => by cases ha.symm.trans hu }

/-- A tick without an event keeps the invariant of an attached slot (R69): a direction whose hold runs out is cleared. -/
theorem SlotInv.noEvent {I : Inst} {i : EncId} {x : EncSlot} (h : SlotInv I i x) (ha : x.attached = true) :
    SlotInv I i (noEvent x) where
  fsm_le := h.fsm_le
  pos_lt := h.pos_lt
  hold_le := by have := h.hold_le; rw [noEvent_hold_toNat]; omega
  dir_held _ hd h0 := hd (by rw [noEvent_dir, if_pos h0])
  inv_latched := h.inv_latched
  unattached hu := by cases ha.symm.trans hu

theorem SlotInv.tick {I : Inst} {i : EncId} {x : EncSlot} (hI : InstOk I) (h : SlotInv I i x)
    (ha : x.attached = true) (smp : Sample) : SlotInv I i (tickSlot I smp x) := by
  have hz : SlotInv I i { x with fsm := nextField (stateByte I.par x.fsm smp) } :=
    { h with
      fsm_le := nextField_stateByte_le hI.tables h.fsm_le smp
      unattached := fun hu => by cases ha.symm.trans hu }
  rcases tickSlot_cases I smp x with ⟨-, ht⟩ | ⟨-, -, ht⟩ | ⟨-, -, ht⟩ <;> rw [ht]
  · exact hz.detent hI ha .pos
  · exact hz.detent hI ha .neg
  · exact hz.noEvent ha

theorem SlotEffect.keeps_inv {I : Inst} {j : EncId} {x y : EncSlot} (hI : InstOk I) (h : SlotInv I j x)
    (he : SlotEffect I j x y) : SlotInv I j y := by
  cases he with
  | kept => exact h
  | ticked smp ha => exact h.tick hI ha smp
  | attached p => exact slotInv_attachedSlot hI j p

/-- No operation detaches a slot. -/
theorem SlotEffect.keeps_attached {I : Inst} {j : EncId} {x y : EncSlot} (he : SlotEffect I j x y)
    (ha : x.attached = true) : y.attached = true := by
  cases he with
  | kept => exact ha
  | ticked smp _ => rwa [tickSlot_attached]
  | attached p => rfl

/-! ### The writes of an operation -/

/-- The invariant does not speak of the fault register, the trace or the result; nor, below, of the pin mode, the
pending requests, the draw count and MAIN's wait. -/
theorem BlockInv.raised {s : State} (h : BlockInv s) (c : FaultCause) : BlockInv (raise c s) := { h with }

theorem BlockInv.write_slots {s : State} (h : BlockInv s) {enc : PerEnc EncSlot}
    (he : ∀ j, SlotEffect s.inst j (s.enc.get j) (enc.get j)) (r : OpResult) :
    BlockInv { s with enc := enc, result := r } :=
  { h with
    slots := fun j => (he j).keeps_inv h.inst_ok (h.slots j)
    booted_slot0 := fun hr => (he 0).keeps_attached (h.booted_slot0 hr)
    booted_slot1 := fun hr => (he 1).keeps_attached (h.booted_slot1 hr) }

/-- A written latch is defined, and the other one is as it was. -/
theorem BlockInv.write_latch {s : State} (h : BlockInv s) (j : EncId) (v : Dir) (r : OpResult) :
    BlockInv { s with d := s.d.set j (some v), result := r } := by
  obtain rfl | rfl := EncId.eq_zero_or_one j
  · exact { h with latched_d0 := fun _ => by simp, latched_d1 := h.latched_d1 }
  · exact { h with latched_d0 := h.latched_d0, latched_d1 := fun _ => by simp }

/-- PS2_INIT (43_ps2.md R87) enables the emulator exactly under `usbPs2`; it does not write `tx`, which is undefined
already where it leaves the emulator disabled. -/
theorem BlockInv.write_session {s : State} (h : BlockInv s) (r : OpResult) :
    BlockInv { s with
      mask := some (maskOf s.inst.par s.inst.cfg.deviceType)
      ps2En := s.inst.cfg.deviceComm == .usbPs2
      ps2Step := 0
      result := r } :=
  { h with
    mask_fixed := fun m hm => (Option.some.inj hm).symm
    enabled := fun hc => ⟨by simp, beq_iff_eq.mp hc⟩
    disabled := fun hc => ⟨rfl, (h.disabled (Bool.eq_false_iff.mpr fun he =>
      beq_eq_false_iff_ne.mp hc (h.enabled he).2)).2⟩
    booted_session := fun _ => by simp }

theorem Effect.keeps_inv {i : Instr} {s t : State} (h : BlockInv s) (he : Effect i s t) : BlockInv t := by
  cases he with
  | raised c => exact h.raised c
  | returned r n => exact { h with }
  | timer r => exact { h with timer_rate := by simp, booted_timer := fun _ => rfl }
  | slots enc he => exact h.write_slots he .none
  | pins m => exact { h with }
  | frame m f r => exact { h with read_frame := fun _ => by simp }
  | latch j v => exact h.write_latch j v .none
  | word w => exact { h with published := fun _ => by simp }
  | session => exact h.write_session .none
  | received k v l n r _ hs _ => exact { h with disabled := fun hd => by cases hs.symm.trans hd }

theorem BlockInv.after_instr {s : State} (h : BlockInv s) (i : Instr) : BlockInv (after i s) :=
  (after_effect i s).keeps_inv h

/-! ### MAIN's phase (42_composer.md R84, 70_reset_and_hazards.md R120) -/

/-- What the invariant asks for from the phase of rank `n` on: the write of the phase before it. -/
def Vouched (s : State) : Nat → Prop
  | 1 => s.tmrEn = true
  | 2 => s.enc.e0.attached = true
  | 3 => s.enc.e1.attached = true
  | 5 => s.mask ≠ none
  | 6 => s.frame ≠ none
  | 7 => s.d.e0 ≠ none
  | 8 => s.d.e1 ≠ none
  | 9 => s.outw ≠ none
  | _ => True

theorem BlockInv.vouched {s : State} (h : BlockInv s) {n : Nat} (hn : n ≤ s.mphase.rank) : Vouched s n :=
  match n with
  | 0 => trivial
  | 1 => h.booted_timer hn
  | 2 => h.booted_slot0 hn
  | 3 => h.booted_slot1 hn
  | 4 => trivial
  | 5 => h.booted_session hn
  | 6 => h.read_frame hn
  | 7 => h.latched_d0 hn
  | 8 => h.latched_d1 hn
  | 9 => h.published hn
  | _ + 10 => trivial

/-- MAIN may be in any phase that everything written vouches for. -/
theorem BlockInv.write_mphase {s : State} (h : BlockInv s) {p : MPhase} (hv : ∀ n, n ≤ p.rank → Vouched s n) :
    BlockInv { s with mphase := p } :=
  { h with
    booted_timer := hv 1
    booted_slot0 := hv 2
    booted_slot1 := hv 3
    booted_session := hv 5
    read_frame := hv 6
    latched_d0 := hv 7
    latched_d1 := hv 8
    published := hv 9 }

theorem rank_nextPhase_le (p : MPhase) : (nextPhase p).rank ≤ p.rank + 1 := by
  cases p <;> decide

/-- MAIN's advance keeps the invariant where a fault stands, or the phase's own operation has made its write. -/
theorem BlockInv.advancePhase {s : State} (h : BlockInv s)
    (hd : s.fault = none → Vouched s (s.mphase.rank + 1)) : BlockInv (advancePhase s) := by
  by_cases hf : s.fault = none
  · rw [advancePhase_of_ok hf]
    refine h.write_mphase fun n hn => ?_
    rcases Nat.le_succ_iff.mp (hn.trans (rank_nextPhase_le _)) with hle | rfl
    · exact h.vouched hle
    · exact hd hf
  · rwa [advancePhase_of_fault hf]

/-- CMP_LATCHDIR leaves the latch of an existing slot defined, unless it faults. -/
theorem cmpLatchdir_latched {e : Byte} {j : EncId} {s : State} (h : encId? e = some j)
    (hok : (cmpLatchdir e s).fault = none) : (cmpLatchdir e s).d.get j ≠ none := by
  rcases ha : (s.enc.get j).attached
  · rw [cmpLatchdir, checkAttached_of_unattached h ha] at hok
    exact absurd hok (raise_fault_ne_none _ s)
  · rw [cmpLatchdir_of_attached h ha]; simp

/-- CMP_PUBLISH leaves the outgoing word defined, unless it faults. -/
theorem cmpPublish_published {s : State} (hok : (cmpPublish s).fault = none) : (cmpPublish s).outw ≠ none := by
  rcases cmpPublish_cases s with ⟨f, d0, d1, -, -, -, h⟩ | ⟨-, h⟩ | ⟨-, -, h⟩ | ⟨-, -, -, h⟩ <;> rw [h] at hok ⊢
  · simp
  all_goals exact absurd hok (raise_fault_ne_none _ s)

/-- QD_INIT leaves the timer enabled, unless it faults. -/
theorem qdInit_enabled {rate : BitVec 2} {s : State} (hok : (qdInit rate s).fault = none) :
    (qdInit rate s).tmrEn = true := by
  rcases qdInit_cases rate s with ⟨r, -, h⟩ | ⟨-, h⟩ <;> rw [h] at hok ⊢
  exact absurd hok (raise_fault_ne_none _ s)

/-- The operation of a phase makes the phase's write, unless it faults. -/
theorem vouched_after_phaseInstr (p : Params) (p1 p2 : Byte) (ph : MPhase) {s : State}
    (hok : (after (phaseInstr p p1 p2 ph) s).fault = none) :
    Vouched (after (phaseInstr p p1 p2 ph) s) (ph.rank + 1) := by
  cases ph with
  | bootQd => exact qdInit_enabled hok
  | bootAtt0 => exact rfl
  | bootAtt1 => exact rfl
  | bootBtn => trivial
  | bootPs2 => exact Option.some_ne_none _
  | read => exact Option.some_ne_none _
  | dir0 => exact cmpLatchdir_latched (j := 0) rfl hok
  | dir1 => exact cmpLatchdir_latched (j := 1) rfl hok
  | publish => exact cmpPublish_published hok
  | restore => trivial

/-- An agent step keeps the invariant: its operation does, and MAIN advances over the operation of its own phase. -/
theorem BlockInv.agentStep {s : State} (h : BlockInv s) (a : AgentStep) :
    BlockInv (afterAgent a (after (agentInstr s a) s)) := by
  cases a with
  | main p1 p2 =>
    refine (h.after_instr _).advancePhase fun hok => ?_
    rw [(after_effect _ s).mphase_eq]
    exact vouched_after_phaseInstr _ p1 p2 s.mphase hok
  | _ =>
    rw [afterAgent_of_not_main rfl]
    exact h.after_instr _

end Sys2Proof.Machine

open Sys2Proof.Machine in
/-- Settles O20: a step runs an operation, raises ILLEGAL_OP or is an agent's step, from a state that differs from the
last one in the requests, the draws and MAIN's wait only. -/
theorem everyStepKeepsTheInvariant : Obligations.EveryStepKeepsTheInvariant := by
  intro s t h hstep
  obtain ⟨-, u, ⟨rs, n, k, rfl⟩, ht⟩ := step_cases_frame hstep
  have hu : BlockInv { s with pending := rs, draws := n, mainDue := k } := { h with }
  rcases ht with ⟨i, rfl⟩ | ⟨w, rfl⟩ | ⟨a, rfl⟩
  · exact hu.after_instr i
  · exact hu.raised _
  · exact hu.agentStep a
end

section
/-! What a run never changes, the parameters and the configuration (O10), and the events each operation adds to the
trace (O16). -/

namespace Sys2Proof.Machine

theorem afterAgent_inst (a : AgentStep) (s : State) : (afterAgent a s).inst = s.inst := by
  obtain ⟨p, h⟩ := afterAgent_frame a s
  rw [h]

/-- No step changes the parameters or the configuration: an operation does not, and nothing beside it does. -/
theorem step_inst {s t : State} (h : step s = .next t) : t.inst = s.inst := by
  obtain ⟨-, u, ⟨rs, n, k, rfl⟩, ⟨i, rfl⟩ | ⟨w, rfl⟩ | ⟨a, rfl⟩⟩ := step_cases_frame h
  · exact (after_effect i _).inst_eq
  · rfl
  · rw [afterAgent_inst]; exact (after_effect _ _).inst_eq

/-- A run of at least one step that answers a next state is a step followed by a run. -/
theorem exists_step_of_steps_succ {k : Nat} {s t : State} (h : steps (k + 1) s = .next t) :
    ∃ u, step s = .next u ∧ steps k u = .next t := by
  rcases hs : step s with u | r | r
  · exact ⟨u, rfl, by rwa [steps_succ_of_next hs] at h⟩
  · simp [steps, hs] at h
  · simp [steps, hs] at h

/-! ### The trace -/

/-- What O16 says of the events `l` that operation `i` adds from `s` to `t` (10_state.md R28). -/
def EventsAllowed (i : Instr) (s t : State) (l : List Event) : Prop :=
  (∀ b miso, .xchg b miso ∈ l → i = .ps2Xchg b ∧ s.ps2En = true) ∧
  (.active ∈ l ∨ .ack ∈ l → s.ps2En = true ∧ receives i = true) ∧
  (∀ c, .fault c ∈ l → l = [.fault c] ∧ t.fault ≠ none ∧ (s.fault = none → t = faulted c s))

theorem eventsAllowed_nil (i : Instr) (s t : State) : EventsAllowed i s t [] := by
  simp [EventsAllowed]

/-- A raised fault adds its own event (60_exceptions.md R105). -/
theorem eventsAllowed_raise (i : Instr) (s : State) (c : FaultCause) :
    EventsAllowed i s (raise c s) [.fault c] := by
  refine ⟨by simp, by simp, fun d hd => ?_⟩
  obtain rfl : d = c := by simpa using hd
  exact ⟨rfl, raise_fault_ne_none d s, fun hs => raise_eq_faulted hs d⟩

/-- The events of an enabled reception are ACTIVE, ACK and, for an exchange, XCHG with its byte (43_ps2.md R88 to R90). -/
theorem ReceptionEvents.mem_cases {i : Instr} {l : List Event} (h : ReceptionEvents i l) {e : Event} (he : e ∈ l) :
    e = .active ∨ e = .ack ∨ ∃ b miso, i = .ps2Xchg b ∧ e = .xchg b miso := by
  obtain ⟨pre, hpre, hl⟩ := h
  have hmem : e ∈ pre ∨ e = .active ∨ e = .ack := by
    rcases hl with rfl | rfl <;> simp at he <;> tauto
  rcases hmem with hp | h
  · rcases hpre with rfl | ⟨b, miso, hi, rfl⟩
    · cases hp
    · exact .inr (.inr ⟨b, miso, hi, List.mem_singleton.mp hp⟩)
  · exact h.elim .inl fun h => .inr (.inl h)

theorem eventsAllowed_of_reception {i : Instr} {s t : State} {l : List Event} (hr : receives i = true)
    (he : s.ps2En = true) (hl : ReceptionEvents i l) : EventsAllowed i s t l := by
  refine ⟨fun b miso hm => ?_, fun _ => ⟨he, hr⟩, fun c hc => ?_⟩
  · obtain h | h | ⟨b', miso', hi, h⟩ := hl.mem_cases hm <;> cases h
    exact ⟨hi, he⟩
  · obtain h | h | ⟨b', miso', -, h⟩ := hl.mem_cases hc <;> cases h

/-- Every effect extends the trace by allowed events. -/
theorem Effect.trace_grows {i : Instr} {s t : State} (h : Effect i s t) :
    ∃ l, t.trace = s.trace ++ l ∧ EventsAllowed i s t l := by
  cases h with
  | raised c => exact ⟨_, rfl, eventsAllowed_raise i s c⟩
  | received k v l n r hr he hl => exact ⟨l, rfl, eventsAllowed_of_reception hr he hl⟩
  | _ => exact ⟨[], (List.append_nil _).symm, eventsAllowed_nil ..⟩

end Sys2Proof.Machine

open Sys2Proof.Machine in
/-- Settles O10, by induction on the number of steps. -/
theorem instanceIsConstant : Obligations.InstanceIsConstant := by
  intro k
  induction k with
  | zero => intro s t h; rw [next_inj h]
  | succ k ih =>
    intro s t h
    obtain ⟨u, hu, ht⟩ := exists_step_of_steps_succ h
    exact (ih u t ht).trans (step_inst hu)

open Sys2Proof.Machine in
/-- Settles O16: only a raised fault and an enabled reception extend the trace. -/
theorem traceOnlyGrows : Obligations.TraceOnlyGrows := by
  intro i s t h
  rw [← after_of_exec h]
  exact (after_effect i s).trace_grows
end

section
/-! The active mapping of a legal configuration (O35): what the stored ButtonMap and CustomMap codes stand for. -/

namespace Sys2Proof.Machine

theorem buttonMapOfCode_of_profile (p : Params) {code : Byte} {k : Fin 7} (h : code.toNat = k.val) :
    buttonMapOfCode p code = some (.profile k) := by
  have hlt : code.toNat < 7 := h ▸ k.isLt
  have hk : (⟨code.toNat, hlt⟩ : Fin 7) = k := Fin.ext h
  rw [buttonMapOfCode, dif_pos hlt, hk]

theorem buttonMapOfCode_customCode {p : Params} (h : CodesOk p) : buttonMapOfCode p p.customCode = some .custom := by
  obtain ⟨-, hc, -⟩ := h
  simp [buttonMapOfCode, hc]

theorem mapEntryOfCode_of_index (p : Params) {code : Byte} {b : BitVec 4} (h : code.toNat = b.toNat) :
    mapEntryOfCode p code = some (some b) := by
  have hb : code.extractLsb' 0 4 = b := by rw [BitVec.extractLsb', h]; simp
  rw [mapEntryOfCode, if_pos (by omega), hb]

theorem mapEntryOfCode_sentinelCode {p : Params} (h : CodesOk p) : mapEntryOfCode p p.sentinelCode = some none := by
  obtain ⟨hs, -, -⟩ := h
  simp [mapEntryOfCode, hs]

/-- A ButtonMap code that names a profile selects its mapping and its forced bits (10_state.md R19). -/
theorem active_of_profile {I : Inst} {k : Fin 7} (h : I.cfg.buttonMap.toNat = k.val) :
    activeMap I = I.par.profileMap[k] ∧ activeForce I = I.par.profileForce[k] := by
  simp [activeMap, activeForce, buttonMapOf, buttonMapOfCode_of_profile I.par h]

/-- CUSTOM_CODE selects the custom mapping and forces nothing (R19). -/
theorem active_of_custom {I : Inst} (hI : InstOk I) (h : I.cfg.buttonMap = I.par.customCode) :
    activeMap I = customMapping I ∧ activeForce I = 0 := by
  simp [activeMap, activeForce, buttonMapOf, h, buttonMapOfCode_customCode hI.codes]

/-- An entry of the custom mapping is what its stored code stands for. -/
theorem customMapping_get {I : Inst} {i : Fin 12} {e : MapEntry}
    (h : mapEntryOfCode I.par I.cfg.customMap[i] = some e) : (customMapping I)[i] = e := by
  simp_all [customMapping]

end Sys2Proof.Machine

open Sys2Proof.Machine in
/-- Settles O35: a legal ButtonMap code names a profile or is CUSTOM_CODE, and not both. -/
theorem activeMappingFollowsButtonMap : Obligations.ActiveMappingFollowsButtonMap := by
  intro I hI
  refine ⟨fun k hk => active_of_profile hk, fun hc => ?_⟩
  obtain ⟨hmap, hforce⟩ := active_of_custom hI hc
  rw [hmap]
  exact ⟨hforce, fun i => ⟨fun b hb => customMapping_get (mapEntryOfCode_of_index I.par hb),
    fun hs => customMapping_get (hs ▸ mapEntryOfCode_sentinelCode hI.codes)⟩⟩
end

section
/-! Reset (O17, O19): the reset checks accept exactly the legal parameters and configurations, and from those reset meets
the invariant. -/

namespace Sys2Proof.Machine

/-! ### The reset checks -/

theorem ite_some_eq_none_iff {α : Type} {c : Prop} [Decidable c] {a : α} {o : Option α} :
    (if c then some a else o) = none ↔ ¬ c ∧ o = none := by
  split_ifs with h <;> simp [h]

theorem toList_eq_map_finRange {α : Type} {n : Nat} (v : Vector α n) :
    v.toList = (List.finRange n).map fun l => v[l] := by
  apply List.ext_getElem <;> simp

theorem forceOk_iff_card (p : Params) :
    forceOk p = true ↔ (Finset.univ.filter fun l : Fin 7 => p.profileForce[l] ≠ 0).card = 2 := by
  rw [forceOk, beq_iff_eq, toList_eq_map_finRange, List.countP_map, List.countP_eq_length_filter]
  refine Eq.congr_left (congrArg List.length (List.filter_congr fun l _ => ?_))
  simp [bne, BEq.beq]

/-- Exactly two of the seven profiles force bits (42_composer.md R81). -/
theorem forceOk_iff (p : Params) :
    forceOk p = true ↔ ∃ j k : Fin 7, j ≠ k ∧ p.profileForce[j] ≠ 0 ∧ p.profileForce[k] ≠ 0 ∧
      ∀ l : Fin 7, l ≠ j → l ≠ k → p.profileForce[l] = 0 := by
  rw [forceOk_iff_card, Finset.card_eq_two]
  simp only [Finset.ext_iff, Finset.mem_filter, Finset.mem_univ, true_and, Finset.mem_insert, Finset.mem_singleton]
  constructor
  · rintro ⟨j, k, hjk, h⟩
    exact ⟨j, k, hjk, (h j).mpr (.inl rfl), (h k).mpr (.inr rfl), fun l hj hk =>
      not_not.mp fun hl => ((h l).mp hl).elim hj hk⟩
  · rintro ⟨j, k, hjk, hj, hk, h⟩
    refine ⟨j, k, hjk, fun l => ⟨fun hl => ?_, ?_⟩⟩
    · by_contra hn
      exact hl (h l (fun e => hn (.inl e)) fun e => hn (.inr e))
    · rintro (rfl | rfl)
      · exact hj
      · exact hk

theorem tablesOk_iff (p : Params) :
    TablesOk p ↔ evCodesOk p = true ∧ badEntry p = none ∧ fallbackOk p = true ∧ forceOk p = true := by
  rw [evCodesOk_iff, badEntry_eq_none_iff, fallbackOk_iff, forceOk_iff]
  simp only [entryOk_iff]
  unfold TablesOk
  tauto

/-- The construction check accepts exactly the legal parameters (60_exceptions.md R107). -/
theorem firstIllformed_eq_none_iff (p : Params) : firstIllformed p = none ↔ TablesOk p ∧ CodesOk p := by
  rw [tablesOk_iff]
  unfold firstIllformed CodesOk
  rcases badEntry p with _ | ix <;> simp [ite_some_eq_none_iff, and_assoc]

/-- The configuration check accepts exactly the legal configurations (R106). -/
theorem firstBadField_eq_none_iff (I : Inst) : firstBadField I = none ↔ CfgOk I := by
  have hmap : (I.cfg.customMap.toList.any fun c => (mapEntryOfCode I.par c).isNone) = false ↔
      ∀ i : Fin 12, I.cfg.customMap[i].toNat ≤ 15 ∨ I.cfg.customMap[i] = I.par.sentinelCode := by
    simp only [← mapEntryOfCode_isSome_iff, toList_eq_map_finRange]
    simp
  unfold firstBadField CfgOk
  simp only [ite_some_eq_none_iff, ← hmap, ← buttonMapOfCode_isSome_iff]
  simp [Nat.one_le_iff_ne_zero, or_iff_not_imp_left]

/-- Reset raises no fault exactly where both of its checks pass. -/
theorem resetCause_eq_none_iff (I : Inst) : resetCause I = none ↔ InstOk I := by
  have hInst : InstOk I ↔ (TablesOk I.par ∧ CodesOk I.par) ∧ CfgOk I :=
    ⟨fun h => ⟨⟨h.tables, h.codes⟩, h.cfg⟩, fun ⟨⟨ht, hc⟩, hf⟩ => ⟨ht, hc, hf⟩⟩
  rw [hInst, ← firstIllformed_eq_none_iff, ← firstBadField_eq_none_iff]
  unfold resetCause
  rcases firstIllformed I.par <;> simp

theorem exampleInst_legal : InstOk exampleInst := (resetCause_eq_none_iff exampleInst).mp (by decide)

/-! ### The reset state -/

theorem blockInv_resetOf {I : Inst} (h : InstOk I) : BlockInv (State.resetOf I) where
  inst_ok := h
  slots := EncId.forall_iff.mpr ⟨slotInv_reset h 0, slotInv_reset h 1⟩
  mask_fixed _ hm := by cases hm
  enabled he := by cases he
  disabled _ := ⟨rfl, rfl⟩
  timer_rate := by simp [State.resetOf]
  booted_timer hr := by cases hr
  booted_slot0 hr := by cases hr
  booted_slot1 hr := by cases hr
  booted_session hr := by cases hr
  read_frame hr := by cases hr
  latched_d0 hr := by cases hr
  latched_d1 hr := by cases hr
  published hr := by cases hr

end Sys2Proof.Machine

open Sys2Proof.Machine in
/-- Settles O17: the reset checks pass, so the fault register and the trace are empty; every other element
has its value by definition. -/
theorem resetValues : Obligations.ResetValues := by
  intro I hI
  have hc : resetCause I = none := (resetCause_eq_none_iff I).mpr hI
  refine ⟨rfl, rfl, rfl, rfl, rfl, rfl, rfl, rfl, rfl, rfl, rfl, rfl, rfl, ?_, ?_⟩ <;> simp [State.resetOf, hc]

open Sys2Proof.Machine in
/-- Settles O19: State.reset is the reset of the example set EXP, which is legal. -/
theorem resetMeetsTheInvariant : Obligations.ResetMeetsTheInvariant :=
  ⟨fun _ hI => blockInv_resetOf hI, blockInv_resetOf exampleInst_legal⟩
end

section
/-! The writers of each element of state (O15): an operation changes no element it is not listed as a writer of. -/

namespace Sys2Proof.Machine

/-- What O15 says of operation `i` from `s` to `t`, a clause for each group of elements that have the same writers
(10_state.md R20 to R26, 20_memory.md R45). `attachment` and `motion` are the two halves of an encoder slot: what QD_ATTACH
alone writes, and what a tick writes too. -/
structure KeepsToItsWrites (i : Instr) (s t : State) : Prop where
  attachment : ∀ j : EncId, (t.enc.get j).attached ≠ (s.enc.get j).attached ∨
      (t.enc.get j).pinpair ≠ (s.enc.get j).pinpair ∨ (t.enc.get j).inv ≠ (s.enc.get j).inv →
    ∃ e p, i = .qdAttach e p ∧ e.toNat = j.val
  motion : ∀ j : EncId, (t.enc.get j).fsm ≠ (s.enc.get j).fsm ∨ (t.enc.get j).pos ≠ (s.enc.get j).pos ∨
      (t.enc.get j).dir ≠ (s.enc.get j).dir ∨ (t.enc.get j).hold ≠ (s.enc.get j).hold →
    (∃ e p smp, (i = .qdAttach e p ∨ i = .qdTick e smp) ∧ e.toNat = j.val) ∨ ∃ s1 s0, i = .timerIrq s1 s0
  timer : t.tmrEn ≠ s.tmrEn ∨ t.tmrRate ≠ s.tmrRate → ∃ r, i = .qdInit r
  pinmode : t.pinmode ≠ s.pinmode → i = .btnInit ∨ i = .pinsOutput ∨ ∃ lv, i = .btnRead lv
  frame : t.frame ≠ s.frame → ∃ lv, i = .btnRead lv
  latches : t.d ≠ s.d → ∃ e, i = .cmpLatchdir e
  word : t.outw ≠ s.outw → i = .cmpPublish
  session : t.ps2En ≠ s.ps2En ∨ t.mask ≠ s.mask → i = .ps2Init
  ps2Step : t.ps2Step ≠ s.ps2Step → i = .ps2Init ∨ (s.ps2En = true ∧ receives i = true)
  tx : t.tx ≠ s.tx → s.ps2En = true ∧ receives i = true

/-- Every clause holds where nothing is written. A write of a few fields overrides their clauses and takes the others from
here. -/
theorem KeepsToItsWrites.unchanged (i : Instr) (s : State) : KeepsToItsWrites i s s := by
  constructor <;> simp

/-- A raised fault changes no element but the fault register and the trace (60_exceptions.md R105). -/
theorem KeepsToItsWrites.raised (i : Instr) (c : FaultCause) (s : State) : KeepsToItsWrites i s (raise c s) :=
  { KeepsToItsWrites.unchanged i s with }

/-- An operation behind `check_attached` keeps to its writes if it does on the slot its id names. -/
theorem KeepsToItsWrites.of_checkAttached {i : Instr} {e : Byte} {s : State} {k : EncId → State}
    (h : ∀ j, e.toNat = j.val → KeepsToItsWrites i s (k j)) : KeepsToItsWrites i s (checkAttached e s k) := by
  rcases checkAttached_cases e s k with ⟨j, hj, -, hk⟩ | ⟨c, -, hk⟩ <;> rw [hk]
  · exact h j (encId?_eq_some_iff.mp hj)
  · exact .raised i c s

/-! ### The encoder slots and the timer (10_state.md R20, R21) -/

/-- A write of slot `j` asks for its writer at `j` only: the other slot is unchanged. -/
theorem KeepsToItsWrites.write_slot {i : Instr} {s : State} {j : EncId} {y : EncSlot} (r : OpResult)
    (hmotion : ∃ e p smp, (i = .qdAttach e p ∨ i = .qdTick e smp) ∧ e.toNat = j.val)
    (hattach : y.attached ≠ (s.enc.get j).attached ∨ y.pinpair ≠ (s.enc.get j).pinpair ∨ y.inv ≠ (s.enc.get j).inv →
      ∃ e p, i = .qdAttach e p ∧ e.toNat = j.val) :
    KeepsToItsWrites i s { s with enc := s.enc.set j y, result := r } := by
  refine { KeepsToItsWrites.unchanged i s with attachment := fun k h => ?_, motion := fun k h => ?_ }
  all_goals
    obtain rfl : k = j := by
      by_contra hk
      simp [PerEnc.get_set_other _ _ hk] at h
  · exact hattach (by simpa using h)
  · exact .inl hmotion

theorem qdInit_keepsToItsWrites (rate : BitVec 2) (s : State) : KeepsToItsWrites (.qdInit rate) s (qdInit rate s) := by
  rcases qdInit_cases rate s with ⟨r, -, h⟩ | ⟨-, h⟩ <;> rw [h]
  · exact { KeepsToItsWrites.unchanged (.qdInit rate) s with timer := fun _ => ⟨rate, rfl⟩ }
  · exact .raised _ _ s

theorem qdAttach_keepsToItsWrites (e p : Byte) (s : State) :
    KeepsToItsWrites (.qdAttach e p) s (qdAttach e p s) := by
  rcases he : encId? e with _ | j
  · rw [qdAttach, checkId_of_none he]; exact .raised _ _ s
  · have hj : e.toNat = j.val := encId?_eq_some_iff.mp he
    rw [qdAttach_of_some he]
    exact .write_slot .none ⟨e, p, 0, .inl rfl, hj⟩ fun _ => ⟨e, p, rfl, hj⟩

/-- A tick leaves the attach bit, the pin pair and the inversion flag (40_quadrature.md R67 to R69). -/
theorem qdTick_keepsToItsWrites (e : Byte) (smp : Sample) (s : State) :
    KeepsToItsWrites (.qdTick e smp) s (qdTick e smp s) :=
  .of_checkAttached fun _ hj => .write_slot .none ⟨e, 0, smp, .inr rfl, hj⟩ (by simp)

/-- TIMER_IRQ ticks either slot or leaves it (R70), so it changes no attachment. -/
theorem timerIrq_keepsToItsWrites (s1 s0 : Sample) (s : State) :
    KeepsToItsWrites (.timerIrq s1 s0) s (timerIrq s1 s0 s) := by
  rw [timerIrq_eq]
  refine { KeepsToItsWrites.unchanged (.timerIrq s1 s0) s with
    attachment := EncId.forall_iff.mpr ⟨?_, ?_⟩
    motion := fun _ _ => .inr ⟨s1, s0, rfl⟩ }
  all_goals dsimp only; split_ifs <;> simp

/-! ### The outgoing word (10_state.md R25) -/

theorem cmpPublish_keepsToItsWrites (s : State) : KeepsToItsWrites .cmpPublish s (cmpPublish s) := by
  rcases cmpPublish_cases s with ⟨f, d0, d1, -, -, -, h⟩ | ⟨-, h⟩ | ⟨-, -, h⟩ | ⟨-, -, -, h⟩ <;> rw [h]
  · exact { KeepsToItsWrites.unchanged .cmpPublish s with word := fun _ => rfl }
  all_goals exact .raised _ _ s

/-! ### The reception of a byte (43_ps2.md R88, R89) -/

/-- A reception that leaves the step and `tx` while the emulator is disabled. -/
theorem KeepsToItsWrites.received {i : Instr} {s : State} {k : Fin 6} {v : Option Byte} (hi : receives i = true)
    (hd : s.ps2En = false → k = s.ps2Step ∧ v = s.tx) (l : List Event) (n : Nat) (r : OpResult) :
    KeepsToItsWrites i s { s with ps2Step := k, tx := v, trace := s.trace ++ l, draws := n, result := r } := by
  have enabled : k ≠ s.ps2Step ∨ v ≠ s.tx → s.ps2En = true := by
    intro h
    by_contra he
    obtain ⟨hk, hv⟩ := hd (Bool.eq_false_iff.mpr he)
    exact h.elim (· hk) (· hv)
  exact { KeepsToItsWrites.unchanged i s with
    ps2Step := fun h => .inr ⟨enabled (.inl h), hi⟩
    tx := fun h => ⟨enabled (.inr h), hi⟩ }

/-- PS2_RX, and the wire classes that run it. -/
theorem ps2Rx_keepsToItsWrites {i : Instr} (hi : receives i = true) (b : Byte) (s : State) :
    KeepsToItsWrites i s (ps2Rx b s) := by
  obtain ⟨k, v, l, n, h, hd, -⟩ := ps2Rx_frame b s
  rw [h]
  refine .received hi (fun hs => ?_) l n _
  obtain ⟨hk, hv, -, -⟩ := hd hs
  exact ⟨hk, hv⟩

theorem ps2Xchg_keepsToItsWrites (b : Byte) (s : State) : KeepsToItsWrites (.ps2Xchg b) s (ps2Xchg b s) := by
  obtain ⟨k, v, l, n, r, h, hd, -⟩ := ps2Xchg_frame b s
  rw [h]
  refine .received rfl (fun hs => ?_) l n r
  obtain ⟨hk, hv, -⟩ := hd hs
  exact ⟨hk, hv⟩

/-! ### Every operation -/

theorem after_keepsToItsWrites (i : Instr) (s : State) : KeepsToItsWrites i s (after i s) := by
  have unchanged := KeepsToItsWrites.unchanged i s
  cases i with
  | qdInit rate => exact qdInit_keepsToItsWrites rate s
  | qdAttach e p => exact qdAttach_keepsToItsWrites e p s
  | qdTick e smp => exact qdTick_keepsToItsWrites e smp s
  | timerIrq s1 s0 => exact timerIrq_keepsToItsWrites s1 s0 s
  | qdGetdir e => exact .of_checkAttached fun _ _ => { unchanged with }
  | qdGetpos e => exact .of_checkAttached fun _ _ => { unchanged with }
  | btnInit => exact { unchanged with pinmode := fun _ => .inl rfl }
  | btnRead lv => exact { unchanged with pinmode := fun _ => .inr (.inr ⟨lv, rfl⟩), frame := fun _ => ⟨lv, rfl⟩ }
  | pinsOutput => exact { unchanged with pinmode := fun _ => .inr (.inl rfl) }
  | cmpLatchdir e => exact .of_checkAttached fun _ _ => { unchanged with latches := fun _ => ⟨e, rfl⟩ }
  | cmpPublish => exact cmpPublish_keepsToItsWrites s
  | ps2Init => exact { unchanged with session := fun _ => rfl, ps2Step := fun _ => .inl rfl }
  | ps2Xchg b => exact ps2Xchg_keepsToItsWrites b s
  | ps2Rx b => exact ps2Rx_keepsToItsWrites rfl b s
  | pollHeader => exact ps2Rx_keepsToItsWrites rfl _ s
  | cmdMatch => exact ps2Rx_keepsToItsWrites rfl _ s
  | cmdMismatch b => exact ps2Rx_keepsToItsWrites rfl b s
  | data b => exact ps2Rx_keepsToItsWrites rfl b s
  | idle b => exact ps2Rx_keepsToItsWrites rfl b s

end Sys2Proof.Machine

open Sys2Proof.Machine in
/-- Settles O15: every operation keeps to the writes the spec lists for it. -/
theorem sharedStateHasItsWriters : Obligations.SharedStateHasItsWriters := by
  intro i s t h
  have hw : KeepsToItsWrites i s t := after_of_exec h ▸ after_keepsToItsWrites i s
  exact ⟨fun j => ⟨hw.attachment j, hw.motion j⟩, hw.timer, hw.pinmode, hw.frame, hw.latches, hw.word, hw.session,
    hw.ps2Step, hw.tx⟩
end

section
/-! Operation words (30_encoding.md R57 to R60): which words match a row of the opcode table, what a legal word decodes to,
and that decoding and encoding undo each other. -/

namespace Sys2Proof

/-! ### A word as its opcode and its low 24 bits -/

theorem word_inj {a b : Byte} {l m : BitVec 24} : word a l = word b m ↔ a = b ∧ l = m := by
  refine ⟨fun h => ?_, fun ⟨ha, hl⟩ => by rw [ha, hl]⟩
  have ha : a = b := by simpa only [opcode_word] using congrArg OpWord.opcode h
  subst ha
  exact ⟨rfl, (BitVec.append_right_inj a).mp h⟩

theorem word_and_word (a b : Byte) (l m : BitVec 24) : word a l &&& word b m = word (a &&& b) (l &&& m) :=
  BitVec.and_append

theorem extractLsb'_word (op : Byte) (l : BitVec 24) {start len : Nat} (h : start + len ≤ 24) :
    (word op l).extractLsb' start len = l.extractLsb' start len :=
  BitVec.extractLsb'_append_eq_of_add_le h

/-! ### The rows of the opcode table -/

/-- The must-be-zero bits of a format, all of them in bits 23:0 (R58). -/
def Format.mustBeZeroField (f : Format) : BitVec 24 := f.mustBeZero.setWidth 24

theorem Format.mustBeZero_eq_word (f : Format) : f.mustBeZero = word 0 f.mustBeZeroField := by
  cases f <;> rfl

/-- The match and the mask of an opcode with its format. -/
def rowBits (op : Byte) (f : Format) : OpWord × OpWord := (word op 0, word 0xFF f.mustBeZeroField)

theorem operationRows_eq (w : OpWord) :
    Machine.operationRows = (decodedRows w).map fun r => rowBits r.1 r.2.1 := by
  simp only [decodedRows, List.map_cons, List.map_nil]
  decide

/-- A word matches a row exactly if it has the row's opcode and no must-be-zero bit of the row's format. -/
theorem and_rowBits_iff {w : OpWord} {op : Byte} {f : Format} :
    w &&& (rowBits op f).2 = (rowBits op f).1 ↔ OpWord.opcode w = op ∧ w &&& f.mustBeZero = 0 := by
  have hw : word (OpWord.opcode w) (w.extractLsb' 0 24) = w := word_of_fields rfl rfl
  have hop : OpWord.opcode w &&& 0xFF#8 = OpWord.opcode w := BitVec.and_allOnes
  have hzero : (0 : OpWord) = word 0 0 := rfl
  rw [rowBits, f.mustBeZero_eq_word, hzero, ← hw, word_and_word, word_and_word, opcode_word, word_inj, word_inj]
  simp [hop]

theorem operationRows_opcodes_nodup : (Machine.operationRows.map fun r => OpWord.opcode r.1).Nodup := by decide

/-- No word matches two rows: a matching row has the word's opcode. -/
theorem row_unique {w : OpWord} {r r' : OpWord × OpWord} (hr : r ∈ Machine.operationRows)
    (hr' : r' ∈ Machine.operationRows) (h : w &&& r.2 = r.1) (h' : w &&& r'.2 = r'.1) : r = r' := by
  have opcode_eq : ∀ x ∈ Machine.operationRows, w &&& x.2 = x.1 → OpWord.opcode x.1 = OpWord.opcode w := by
    rw [operationRows_eq w, List.forall_mem_map]
    intro x _ hx
    rw [rowBits, opcode_word, (and_rowBits_iff.mp hx).1]
  exact List.inj_on_of_nodup_map operationRows_opcodes_nodup hr hr'
    ((opcode_eq r hr h).trans (opcode_eq r' hr' h').symm)

/-! ### The decoder -/

/-- The decoder checks the row that has the word's opcode. -/
theorem decode_of_row {w : OpWord} {r : Byte × Format × Instr} (hr : r ∈ decodedRows w)
    (ho : OpWord.opcode w = r.1) : decode w = checked w r.2.1 r.2.2 := by
  simp only [decodedRows, List.mem_cons, List.not_mem_nil, or_false] at hr
  rcases hr with rfl | rfl | rfl | rfl | rfl | rfl | rfl | rfl | rfl | rfl | rfl | rfl | rfl | rfl
  all_goals simp [decode, ho]

/-- A word decodes to the instruction of a row exactly if it matches the row. -/
theorem decode_ok_iff {w : OpWord} {i : Instr} : decode w = .ok i ↔
    ∃ r ∈ decodedRows w, w &&& (rowBits r.1 r.2.1).2 = (rowBits r.1 r.2.1).1 ∧ i = r.2.2 := by
  simp only [and_rowBits_iff]
  constructor
  · intro h
    obtain ⟨r, hr, ho, hz, hi⟩ := decode_ok_row h
    exact ⟨r, hr, ⟨ho, hz⟩, hi⟩
  · rintro ⟨r, hr, ⟨ho, hz⟩, rfl⟩
    rw [decode_of_row hr ho, checked_eq_ok_iff]
    exact ⟨hz, rfl⟩

/-- A word is legal exactly if it matches a row of the opcode table. -/
theorem legal_iff_matches_row (w : OpWord) :
    (∃ i, decode w = .ok i) ↔ ∃ r ∈ Machine.operationRows, w &&& r.2 = r.1 := by
  rw [operationRows_eq w]
  simp only [decode_ok_iff, List.mem_map, exists_exists_and_eq_and]
  exact ⟨fun ⟨_, r, hr, h, _⟩ => ⟨r, hr, h⟩, fun ⟨r, hr, h⟩ => ⟨_, r, hr, h, rfl⟩⟩

/-! ### From a word to its encoding -/

theorem extractLsb'_split (w : OpWord) (start hi lo : Nat) :
    w.extractLsb' start (hi + lo) = w.extractLsb' (start + lo) hi ++ w.extractLsb' start lo :=
  (BitVec.extractLsb'_append_extractLsb'_eq_extractLsb' rfl).symm

theorem field_eq_zero {w m : OpWord} (h : w &&& m = 0) (start len : Nat)
    (hm : m.extractLsb' start len = BitVec.allOnes len) : w.extractLsb' start len = 0 := by
  have hfield : (w &&& m).extractLsb' start len = 0 := by rw [h]; exact BitVec.extractLsb'_zero
  simpa [BitVec.extractLsb'_and, hm] using hfield

/-- Bits 23:0 of a legal word of a format: its fields, and 0 elsewhere (R58). -/
def Format.operands (w : OpWord) : Format → BitVec 24
  | .fNone => 0
  | .fRate => 0#22 ++ OpWord.low2 w
  | .fE => 0#8 ++ OpWord.fieldE w ++ 0#8
  | .fEP => 0#8 ++ OpWord.fieldE w ++ OpWord.low8 w
  | .fES => 0#8 ++ OpWord.fieldE w ++ 0#6 ++ OpWord.low2 w
  | .fSS => 0#20 ++ OpWord.fieldS1 w ++ OpWord.low2 w
  | .fLV => 0#12 ++ OpWord.fieldLV w
  | .fB => 0#16 ++ OpWord.low8 w

theorem extractLsb'_eq_operands {w : OpWord} {f : Format} (h : w &&& f.mustBeZero = 0) :
    w.extractLsb' 0 24 = f.operands w := by
  have zero := field_eq_zero h
  have split := extractLsb'_split w
  cases f with
  | fNone => exact zero 0 24 rfl
  | fRate => rw [split 0 22 2, zero 2 22 rfl]; rfl
  | fE => rw [split 0 16 8, split 8 8 8, zero 16 8 rfl, zero 0 8 rfl]; rfl
  | fEP => rw [split 0 16 8, split 8 8 8, zero 16 8 rfl]; rfl
  | fES => rw [split 0 22 2, split 2 16 6, split 8 8 8, zero 16 8 rfl, zero 2 6 rfl]; rfl
  | fSS => rw [split 0 22 2, split 2 20 2, zero 4 20 rfl]; rfl
  | fLV => rw [split 0 12 12, zero 12 12 rfl]; rfl
  | fB => rw [split 0 16 8, zero 8 16 rfl]; rfl

theorem encode_decodedRow {w : OpWord} {r : Byte × Format × Instr} (h : r ∈ decodedRows w) :
    encode r.2.2 = .opWord (word r.1 (r.2.1.operands w)) ∧ r.2.2.wellFormed = true := by
  revert r
  simp [decodedRows, encode, Format.operands, Instr.wellFormed]

/-- A legal word is the encoding of the instruction it decodes to. -/
theorem encode_of_decode {w : OpWord} {i : Instr} (h : decode w = .ok i) :
    encode i = .opWord w ∧ i.wellFormed = true := by
  obtain ⟨r, hr, ho, hz, rfl⟩ := decode_ok_row h
  obtain ⟨he, hwf⟩ := encode_decodedRow hr
  rw [he, word_of_fields ho (extractLsb'_eq_operands hz)]
  exact ⟨rfl, hwf⟩

/-! ### From an encoding to the instruction: each field is read back where the encoder put it (R58) -/

@[simp] theorem low2_word (op : Byte) (x : BitVec 22) (s : BitVec 2) : OpWord.low2 (word op (x ++ s)) = s :=
  (extractLsb'_word op _ (by decide)).trans BitVec.extractLsb'_append_eq_right

@[simp] theorem low8_word (op : Byte) (x : BitVec 16) (b : Byte) : OpWord.low8 (word op (x ++ b)) = b :=
  (extractLsb'_word op _ (by decide)).trans BitVec.extractLsb'_append_eq_right

@[simp] theorem fieldLV_word (op : Byte) (x : BitVec 12) (lv : Frame) : OpWord.fieldLV (word op (x ++ lv)) = lv :=
  (extractLsb'_word op _ (by decide)).trans BitVec.extractLsb'_append_eq_right

@[simp] theorem fieldS1_word (op : Byte) (x : BitVec 20) (s1 s0 : Sample) :
    OpWord.fieldS1 (word op (x ++ s1 ++ s0)) = s1 := by
  rw [OpWord.fieldS1, extractLsb'_word op _ (by decide), BitVec.extractLsb'_append_eq_of_le (by decide)]
  exact BitVec.extractLsb'_append_eq_right

@[simp] theorem fieldE_word (op : Byte) (x : BitVec 8) (e p : Byte) : OpWord.fieldE (word op (x ++ e ++ p)) = e := by
  rw [OpWord.fieldE, extractLsb'_word op _ (by decide), BitVec.extractLsb'_append_eq_of_le (by decide)]
  exact BitVec.extractLsb'_append_eq_right

@[simp] theorem fieldE_word_sample (op : Byte) (x : BitVec 8) (e : Byte) (z : BitVec 6) (s : Sample) :
    OpWord.fieldE (word op (x ++ e ++ z ++ s)) = e := by
  rw [OpWord.fieldE, extractLsb'_word op _ (by decide), BitVec.extractLsb'_append_eq_of_le (by decide),
    BitVec.extractLsb'_append_eq_of_le (by decide)]
  exact BitVec.extractLsb'_append_eq_right

theorem encode_matches_row : ∀ i : Instr, Laws.RowMatch.Statement i
  | .qdInit rate => Laws.RowMatch.qdInit rate
  | .qdAttach e p => Laws.RowMatch.qdAttach e p
  | .qdTick e s => Laws.RowMatch.qdTick e s
  | .timerIrq s1 s0 => Laws.RowMatch.timerIrq s1 s0
  | .qdGetdir e => Laws.RowMatch.qdGetdir e
  | .qdGetpos e => Laws.RowMatch.qdGetpos e
  | .btnInit => Laws.RowMatch.btnInit
  | .btnRead lv => Laws.RowMatch.btnRead lv
  | .pinsOutput => Laws.RowMatch.pinsOutput
  | .cmpLatchdir e => Laws.RowMatch.cmpLatchdir e
  | .cmpPublish => Laws.RowMatch.cmpPublish
  | .ps2Init => Laws.RowMatch.ps2Init
  | .ps2Rx b => Laws.RowMatch.ps2Rx b
  | .ps2Xchg b => Laws.RowMatch.ps2Xchg b
  | .pollHeader => Laws.RowMatch.pollHeader
  | .cmdMatch => Laws.RowMatch.cmdMatch
  | .cmdMismatch b => Laws.RowMatch.cmdMismatch b
  | .data b => Laws.RowMatch.data b
  | .idle b => Laws.RowMatch.idle b

/-- The operands of an encoded operation are those its own row reads from the word. -/
theorem exists_row_of_encode {i : Instr} {w : OpWord} (h : encode i = .opWord w) :
    ∃ op f, (op, f, i) ∈ decodedRows w ∧ Laws.rowOf i = rowBits op f := by
  cases i <;> cases h
  case qdInit rate => exact ⟨0x01, .fRate, by simp [decodedRows], rfl⟩
  case qdAttach e p => exact ⟨0x02, .fEP, by simp [decodedRows], rfl⟩
  case qdTick e s => exact ⟨0x03, .fES, by simp [decodedRows], rfl⟩
  case timerIrq s1 s0 => exact ⟨0x04, .fSS, by simp [decodedRows], rfl⟩
  case qdGetdir e => exact ⟨0x05, .fE, by simp [decodedRows], rfl⟩
  case qdGetpos e => exact ⟨0x06, .fE, by simp [decodedRows], rfl⟩
  case btnInit => exact ⟨0x10, .fNone, by simp [decodedRows], rfl⟩
  case btnRead lv => exact ⟨0x11, .fLV, by simp [decodedRows], rfl⟩
  case pinsOutput => exact ⟨0x12, .fNone, by simp [decodedRows], rfl⟩
  case cmpLatchdir e => exact ⟨0x20, .fE, by simp [decodedRows], rfl⟩
  case cmpPublish => exact ⟨0x21, .fNone, by simp [decodedRows], rfl⟩
  case ps2Init => exact ⟨0x30, .fNone, by simp [decodedRows], rfl⟩
  case ps2Rx b => exact ⟨0x31, .fB, by simp [decodedRows], rfl⟩
  case ps2Xchg b => exact ⟨0x32, .fB, by simp [decodedRows], rfl⟩

/-- An encoded operation decodes to itself: its word matches its own row, which reads its operands back. -/
theorem decode_of_encode {i : Instr} {w : OpWord} (h : encode i = .opWord w) : decode w = .ok i := by
  obtain ⟨op, f, hm, hrow⟩ := exists_row_of_encode h
  have hmatch : w &&& (rowBits op f).2 = (rowBits op f).1 := by
    simpa only [Laws.RowMatch.Statement, h, Laws.encodedBits, hrow] using encode_matches_row i
  exact decode_ok_iff.mpr ⟨(op, f, i), hm, hmatch, rfl⟩

/-! ### The wire class of a byte at a step (R54) -/

theorem classify_pollHeader (k : Fin 6) : classify k pollHeaderByte = .pollHeader := if_pos rfl

theorem classify_cmdMatch : classify 1 cmdByte = .cmdMatch := rfl

theorem classify_cmdMismatch {b : Byte} (hh : b ≠ pollHeaderByte) (hc : b ≠ cmdByte) :
    classify 1 b = .cmdMismatch b := by
  simp [classify, hh, hc]

theorem classify_idle {b : Byte} (hh : b ≠ pollHeaderByte) : classify 5 b = .idle b := by
  simp [classify, hh]

theorem classify_data {k : Fin 6} {b : Byte} (hh : b ≠ pollHeaderByte) (h1 : k ≠ 1) (h5 : k ≠ 5) :
    classify k b = .data b := by
  simp [classify, hh]

/-- A byte is the encoding of its class, which is well formed and a class of the step. -/
theorem encode_classify (k : Fin 6) (b : Byte) :
    encode (classify k b) = .wireByte b ∧ (classify k b).wireAt k = true ∧ (classify k b).wellFormed = true := by
  by_cases hh : b = pollHeaderByte
  · subst hh; rw [classify_pollHeader]; exact ⟨rfl, rfl, rfl⟩
  by_cases h1 : k = 1
  · subst h1
    by_cases hc : b = cmdByte
    · subst hc; exact ⟨rfl, rfl, rfl⟩
    · rw [classify_cmdMismatch hh hc]; simp [encode, Instr.wireAt, Instr.wellFormed, hh, hc]
  by_cases h5 : k = 5
  · subst h5; rw [classify_idle hh]; simp [encode, Instr.wireAt, Instr.wellFormed, hh]
  · rw [classify_data hh h1 h5]; simp [encode, Instr.wireAt, Instr.wellFormed, hh, h1, h5]

/-- A well-formed wire class is the class of its byte at each of its steps. -/
theorem classify_of_encode {i : Instr} {b : Byte} {k : Fin 6} (hwf : i.wellFormed = true)
    (h : encode i = .wireByte b) (hk : i.wireAt k = true) : classify k b = i := by
  cases i <;> cases h
  case pollHeader => exact classify_pollHeader k
  case cmdMatch =>
    obtain rfl : k = 1 := by simpa [Instr.wireAt] using hk
    exact classify_cmdMatch
  case cmdMismatch =>
    obtain rfl : k = 1 := by simpa [Instr.wireAt] using hk
    obtain ⟨hh, hc⟩ : b ≠ pollHeaderByte ∧ b ≠ cmdByte := by simpa [Instr.wellFormed] using hwf
    exact classify_cmdMismatch hh hc
  case data =>
    obtain ⟨h1, h5⟩ : k ≠ 1 ∧ k ≠ 5 := by simpa [Instr.wireAt] using hk
    exact classify_data (by simpa [Instr.wellFormed] using hwf) h1 h5
  case idle =>
    obtain rfl : k = 5 := by simpa [Instr.wireAt] using hk
    exact classify_idle (by simpa [Instr.wellFormed] using hwf)

end Sys2Proof

/-- Settles O1: an operation word through the row of the opcode table it matches, a byte through its class. -/
theorem decodeEncodeRoundTrip : Obligations.DecodeEncodeRoundTrip := fun _ hwf =>
  ⟨fun _ he => Sys2Proof.decode_of_encode he, fun _ _ he hk => Sys2Proof.classify_of_encode hwf he hk⟩

/-- Settles O2: a legal word has its row's opcode, its fields and 0 elsewhere, which is how the encoder builds it. -/
theorem decodedWordIsItsEncoding : Obligations.DecodedWordIsItsEncoding :=
  ⟨fun _ _ h => Sys2Proof.encode_of_decode h, Sys2Proof.encode_classify⟩

/-- Settles O4, by evaluating the decoder on the eight words. -/
theorem specWordsDecode : Obligations.SpecWordsDecode := by
  unfold Obligations.SpecWordsDecode
  decide
end

section
/-! What a step does with a pending word or byte (30_encoding.md R54, R57, R60): it runs the instruction that the word
decodes to, or the class of the byte, and raises ILLEGAL_OP for an illegal word. -/

namespace Sys2Proof.Machine

theorem step_of_word {s : State} {w : OpWord} {rest : List Request} {i : Instr} (hf : s.fault = none)
    (hp : s.pending = .word w :: rest) (hd : decode w = .ok i) : step s = exec i { s with pending := rest } := by
  rw [step_of_pending hf hp]
  simp [runRequest, hd, setPending]

theorem step_of_illegal_word {s : State} {w : OpWord} {rest : List Request} (hf : s.fault = none)
    (hp : s.pending = .word w :: rest) (hd : ∀ i, decode w ≠ .ok i) :
    step s = .next (faulted (.illegalOp w) { s with pending := rest }) := by
  rw [step_of_pending hf hp, ← raise_eq_faulted (s := { s with pending := rest }) hf]
  rcases h : decode w with e | i
  · simp [runRequest, h, setPending]
  · exact absurd h (hd i)

theorem step_of_wire {s : State} {b : Byte} {rest : List Request} (hf : s.fault = none)
    (hp : s.pending = .wire b :: rest) : step s = exec (classify s.ps2Step b) { s with pending := rest } :=
  step_of_pending hf hp

/-- The five encoder operations check the id first (40_quadrature.md R64). -/
theorem exec_of_badEncoderId {e p : Byte} {smp : Sample} {i : Instr} (he : 2 ≤ e.toNat)
    (hi : i ∈ [.qdAttach e p, .qdTick e smp, .qdGetdir e, .qdGetpos e, .cmpLatchdir e]) (s : State) :
    exec i s = .next (raise (.badEncoderId e) s) := by
  have hid : encId? e = none := encId?_eq_none_iff.mpr he
  simp only [List.mem_cons, List.not_mem_nil, or_false] at hi
  rcases hi with rfl | rfl | rfl | rfl | rfl
  · exact congrArg _ (checkId_of_none hid s _)
  all_goals exact congrArg _ (checkAttached_of_none hid _)

/-! ### A table row placed as the next request (log 5) -/

theorem withFetchWord_word {nbits : Nat} (h : 8 < nbits) (w : Nat) (s : State) :
    s.withFetchWord nbits w = { s with pending := .word (BitVec.ofNat 32 w) :: s.pending } := by
  simp [State.withFetchWord, fetchNext, tableRequest, setPending, Nat.not_le.mpr h]

theorem withFetchWord_byte {nbits : Nat} (h : nbits ≤ 8) (w : Nat) (s : State) :
    s.withFetchWord nbits w = { s with
      pending := .wire (BitVec.ofNat 8 w) :: s.pending
      ps2Step := selectingStep (BitVec.ofNat 8 w) s.ps2Step } := by
  simp [State.withFetchWord, fetchNext, tableRequest, setPending, setPs2Step, h]

theorem decode_of_tableWord {nbits w : Nat} {i : Instr} (h : 8 < nbits) (hd : decodeTableWord nbits w = some i) :
    decode (BitVec.ofNat 32 w) = .ok i := by
  rw [decodeTableWord, if_neg (Nat.not_le.mpr h)] at hd
  rcases hw : decode (BitVec.ofNat 32 w) with e | j <;> rw [hw] at hd <;> cases hd
  rfl

theorem wireRow_of_tableWord {nbits w : Nat} {i : Instr} (h : nbits ≤ 8) (hd : decodeTableWord nbits w = some i) :
    wireRow (BitVec.ofNat 8 w) = i := by
  simpa [decodeTableWord, h] using hd

/-- The step that `withFetchWord` selects for a byte gives it the class its bits select (log 7). -/
theorem classify_selectingStep (b : Byte) (k : Fin 6) : classify (selectingStep b k) b = wireRow b := by
  unfold wireRow selectingStep
  split_ifs with hh hc hk
  · rw [hh, classify_pollHeader]
  · rw [hc, classify_cmdMatch]
  · exact classify_data hh (by decide) (by decide)
  · obtain ⟨h1, h5⟩ := not_or.mp hk
    exact classify_data hh h1 h5

theorem selectingStep_of_pollHeader {b : Byte} (h : wireRow b = .pollHeader) (k : Fin 6) : selectingStep b k = k := by
  unfold wireRow at h
  split_ifs at h with hh
  exact if_pos hh

end Sys2Proof.Machine

open Sys2Proof Sys2Proof.Machine in
/-- Settles O3: the table's rows are those of the decoder, each word matches the row of its opcode only, and a word that
matches none does not decode. -/
theorem legalWordsAreTheTableRows : Obligations.LegalWordsAreTheTableRows := by
  refine ⟨legal_iff_matches_row, fun w r hr r' hr' h h' => row_unique hr hr' h h', ?illegal, ?badRate, ?badId⟩
  case illegal =>
    intro w s rest hf hp hnone
    refine step_of_illegal_word hf hp fun i hi => ?_
    obtain ⟨r, hr, h⟩ := (legal_iff_matches_row w).mp ⟨i, hi⟩
    exact hnone r hr h
  case badRate =>
    intro s rest hf hp
    rw [step_of_word (i := .qdInit 0b11) hf hp (by decide), ← raise_eq_faulted (s := { s with pending := rest }) hf]
    rfl
  case badId =>
    intro w e i s rest he hi hw hf hp
    rw [step_of_word hf hp (decode_of_encode hw), exec_of_badEncoderId he hi,
      raise_eq_faulted (s := { s with pending := rest }) hf]

open Sys2Proof Sys2Proof.Machine in
/-- Settles O11: an operation word runs as it decodes, and a byte at the step that `selectingStep` chooses for it. -/
theorem tableWordRunsAsTheNextStep : Obligations.TableWordRunsAsTheNextStep := by
  intro s nbits w i hf hd
  rcases Nat.lt_or_ge 8 nbits with hn | hn
  · rw [withFetchWord_word hn]
    exact ⟨fun _ => rfl, fun hle => absurd hle (Nat.not_le.mpr hn),
      step_of_word (by exact hf) rfl (decode_of_tableWord hn hd)⟩
  · have hrow := wireRow_of_tableWord hn hd
    have hclass := (classify_selectingStep (BitVec.ofNat 8 w) s.ps2Step).trans hrow
    obtain ⟨-, hat, -⟩ := encode_classify (selectingStep (BitVec.ofNat 8 w) s.ps2Step) (BitVec.ofNat 8 w)
    rw [hclass] at hat
    rw [withFetchWord_byte hn]
    refine ⟨fun h => ?_, fun _ => ⟨hat, hclass⟩, ?_⟩
    · obtain rfl : i = .pollHeader := h.resolve_left (Nat.not_lt.mpr hn)
      exact selectingStep_of_pollHeader hrow s.ps2Step
    · rw [step_of_wire (by exact hf) rfl, hclass]

open Sys2Proof.Machine in
/-- Settles O5: the oldest request runs first, and a word runs as the decoder reads it. -/
theorem stepRunsTheDecodedWord : Obligations.StepRunsTheDecodedWord :=
  fun _ _ _ _ hf hp hd => step_of_word hf hp hd

open Sys2Proof Sys2Proof.Machine in
/-- Settles O6: a pending byte runs as `classify` says, which R54 gives case by case. -/
theorem stepRunsTheWireClass : Obligations.StepRunsTheWireClass := by
  intro s b rest hf hp
  rw [step_of_wire hf hp]
  refine ⟨fun hh => ?_, fun hc hk => ?_, fun hh hc hk => ?_, fun hh hk => ?_, fun hh hk => ?_⟩
  · rw [hh]; exact congrArg (exec · _) (classify_pollHeader s.ps2Step)
  · rw [hc, hk]; exact congrArg (exec · _) classify_cmdMatch
  · rw [hk, classify_cmdMismatch hh hc]
  · have h1 : s.ps2Step ≠ 1 := by rintro h; simp [h] at hk
    have h5 : s.ps2Step ≠ 5 := by rintro h; simp [h] at hk
    rw [classify_data hh h1 h5]
  · rw [hk, classify_idle hh]
end

section
/-! The encoder operations: the checks of their id and attach bit, and the exact next state of each (O14, O21, O22,
O25). -/

namespace Sys2Proof.Machine

/-- The four encoder operations beside QD_ATTACH are guarded by `check_attached`, and behind it raise nothing. -/
theorem exec_eq_checkAttached {e : Byte} {smp : Sample} {i : Instr}
    (hi : i ∈ [.qdTick e smp, .qdGetdir e, .qdGetpos e, .cmpLatchdir e]) (s : State) :
    ∃ k : EncId → State, exec i s = .next (checkAttached e s k) ∧ ∀ j, (k j).fault = s.fault := by
  simp only [List.mem_cons, List.not_mem_nil, or_false] at hi
  rcases hi with rfl | rfl | rfl | rfl
  all_goals exact ⟨_, rfl, fun _ => rfl⟩

theorem exec_qdInit_of_rate {rate : BitVec 2} {r : TickRate} (h : rateOfCode rate = some r) (s : State) :
    exec (.qdInit rate) s = .next { s with tmrRate := some r, tmrEn := true, result := .none } := by
  rw [exec_qdInit, qdInit, h]; rfl

theorem qdGetdir_of_attached {e : Byte} {j : EncId} {s : State} (h : encId? e = some j)
    (ha : (s.enc.get j).attached = true) :
    qdGetdir e s = { s with result := .byte (dirByte (visibleDir (s.enc.get j))) } :=
  checkAttached_of_attached h ha _

theorem qdGetpos_of_attached {e : Byte} {j : EncId} {s : State} (h : encId? e = some j)
    (ha : (s.enc.get j).attached = true) :
    qdGetpos e s = { s with result := .byte (visiblePos (s.enc.get j)) } :=
  checkAttached_of_attached h ha _

/-- An inverted position is the 8-bit complement (40_quadrature.md R72). -/
theorem visiblePos_toNat_of_inv {x : EncSlot} (h : x.inv = true) : (visiblePos x).toNat = 255 - x.pos.toNat := by
  rw [visiblePos, if_pos h, BitVec.toNat_not]

end Sys2Proof.Machine

open Sys2Proof.Machine in
/-- Settles O14: the id is checked first, then the attach bit, and what comes behind the checks raises nothing. -/
theorem encoderIdsAreChecked : Obligations.EncoderIdsAreChecked := by
  intro e p smp s i hf
  refine ⟨fun he hi => ?badId, fun j hj ha hi => ?unattached, fun j hj h => ?passed⟩
  case badId => rw [exec_of_badEncoderId he hi, raise_eq_faulted hf]
  case unattached =>
    obtain ⟨k, hk, -⟩ := exec_eq_checkAttached hi s
    rw [hk, checkAttached_of_unattached (encId?_eq_some_iff.mpr hj) ha, raise_eq_faulted hf]
  case passed =>
    have hid := encId?_eq_some_iff.mpr hj
    rcases h with rfl | ⟨ha, hi⟩
    · exact ⟨_, congrArg Host.Outcome.next (qdAttach_of_some hid p s), hf⟩
    · obtain ⟨k, hk, hkf⟩ := exec_eq_checkAttached hi s
      exact ⟨k j, by rw [hk, checkAttached_of_attached hid ha], (hkf j).trans hf⟩

open Sys2Proof.Machine in
/-- Settles O21: the rate codes one by one. -/
theorem qdInitStartsTheTimer : Obligations.QdInitStartsTheTimer := fun s =>
  ⟨exec_qdInit_of_rate rfl s, exec_qdInit_of_rate rfl s, exec_qdInit_of_rate rfl s,
    fun hf => congrArg _ (raise_eq_faulted hf (.badRate 0b11))⟩

open Sys2Proof.Machine in
/-- Settles O22: behind `check_id` the slot is written whole. -/
theorem qdAttachCreatesTheSlot : Obligations.QdAttachCreatesTheSlot := by
  refine fun s e p => ⟨fun j hj => ?_, fun he hf => ?_⟩
  · exact congrArg _ (qdAttach_of_some (encId?_eq_some_iff.mpr hj) p s)
  · rw [exec_of_badEncoderId (smp := 0) he List.mem_cons_self, raise_eq_faulted hf]

open Sys2Proof.Machine in
/-- Settles O25: the accessors return `visibleDir` and `visiblePos` of the slot. -/
theorem accessorsReadThroughTheInversion : Obligations.AccessorsReadThroughTheInversion := by
  intro s e j hj x ha
  have hid := encId?_eq_some_iff.mpr hj
  refine ⟨dirByte (visibleDir x), visiblePos x, congrArg _ (qdGetdir_of_attached hid ha),
    congrArg _ (qdGetpos_of_attached hid ha), fun hd => ?zero, fun hi => ?plain, fun hi => ?inverted⟩
  case zero => rw [visibleDir, hd]; cases x.inv <;> rfl
  case plain =>
    have hd : visibleDir x = x.dir := by simp [visibleDir, hi]
    exact ⟨fun h => by rw [hd, h]; rfl, fun h => by rw [hd, h]; rfl, by simp [visiblePos, hi]⟩
  case inverted =>
    have hd : visibleDir x = dirNeg x.dir := if_pos hi
    have hp := visiblePos_toNat_of_inv hi
    exact ⟨fun h => by rw [hd, h]; rfl, fun h => by rw [hd, h]; rfl, hp, fun P _ _ => by omega⟩
end

section
/-! One tick of a slot (O23), TIMER_IRQ (O24), and what sequences of ticks keep: the position below PPR (O26) and its
independence of the slot's wiring (O27). -/

namespace Sys2Proof.Machine

/-! ### One tick (40_quadrature.md R67 to R69) -/

/-- The state byte of an FSM state up to 5 is the table's entry. -/
theorem qentry_eq_stateByte (p : Params) {fsm : Nibble} (h : fsm.toNat ≤ 5) (smp : Sample) :
    qentry p fsm.toNat smp.toNat = some (stateByte p fsm smp) := by
  obtain ⟨t, ht⟩ := qentry_isSome (p := p) (r := fsm.toNat) (c := smp.toNat) (by omega) (by omega)
  rw [stateByte, ht, Option.getD_some]

theorem nextField_toNat (t : Byte) : (nextField t).toNat = t.toNat % 16 := by
  simp [nextField]

theorem positionAfter_pos_toNat {P : Nat} (h1 : 1 ≤ P) (h2 : P ≤ 256) (pos : Byte) :
    (positionAfter P pos .pos).toNat = (P + pos.toNat + 1) % P := by
  have h := positionAfter_toNat h1 h2 pos .pos
  rw [dirInt] at h
  exact_mod_cast h

theorem positionAfter_neg_toNat {P : Nat} (h1 : 1 ≤ P) (h2 : P ≤ 256) (pos : Byte) :
    (positionAfter P pos .neg).toNat = (P + pos.toNat - 1) % P := by
  have h := positionAfter_toNat h1 h2 pos .neg
  rw [dirInt] at h
  have hcast : (P : Int) + pos.toNat + -1 = ((P + pos.toNat - 1 : Nat) : Int) := by omega
  rw [hcast] at h
  exact_mod_cast h

theorem tickSlot_of_evPos {I : Inst} {smp : Sample} {x : EncSlot}
    (h : eventField (stateByte I.par x.fsm smp) = I.par.evPos) :
    tickSlot I smp x = detent I .pos { x with fsm := nextField (stateByte I.par x.fsm smp) } :=
  if_pos h

theorem tickSlot_of_evNeg {I : Inst} {smp : Sample} {x : EncSlot} (hne : I.par.evPos ≠ I.par.evNeg)
    (h : eventField (stateByte I.par x.fsm smp) = I.par.evNeg) :
    tickSlot I smp x = detent I .neg { x with fsm := nextField (stateByte I.par x.fsm smp) } :=
  (if_neg (h.trans_ne hne.symm)).trans (if_pos h)

theorem tickSlot_of_no_event {I : Inst} {smp : Sample} {x : EncSlot}
    (hp : eventField (stateByte I.par x.fsm smp) ≠ I.par.evPos)
    (hn : eventField (stateByte I.par x.fsm smp) ≠ I.par.evNeg) :
    tickSlot I smp x = noEvent { x with fsm := nextField (stateByte I.par x.fsm smp) } :=
  (if_neg hp).trans (if_neg hn)

/-! ### Sequences of ticks -/

/-- A tick moves the position below PPR or leaves it (R68, R69). -/
theorem tickSlot_pos_lt {I : Inst} {x : EncSlot} (h1 : 1 ≤ I.cfg.rotaryPPR) (h2 : I.cfg.rotaryPPR ≤ 256)
    (h : x.pos.toNat < I.cfg.rotaryPPR) (smp : Sample) : (tickSlot I smp x).pos.toNat < I.cfg.rotaryPPR := by
  rcases tickSlot_cases I smp x with ⟨-, ht⟩ | ⟨-, -, ht⟩ | ⟨-, -, ht⟩ <;> rw [ht]
  · exact positionAfter_lt h1 h2 x.pos .pos
  · exact positionAfter_lt h1 h2 x.pos .neg
  · exact h

/-- A slot without its pin pair and inversion flag, which say how the slot is wired and not what it has decoded. -/
def EncSlot.unwired (x : EncSlot) : EncSlot := { x with pinpair := none, inv := false }

/-- A tick does not read the wiring of the slot. -/
theorem tickSlot_unwired (I : Inst) (smp : Sample) (x : EncSlot) :
    tickSlot I smp x.unwired = (tickSlot I smp x).unwired := by
  unfold tickSlot; dsimp only [EncSlot.unwired]; split_ifs <;> rfl

/-- A freshly attached slot that has been ticked is, but for its wiring, the same for every slot and pin pair. -/
theorem unwired_foldl_attachedSlot (I : Inst) (i : EncId) (p : Byte) (samples : List Sample) :
    (samples.foldl (fun y smp => tickSlot I smp y) (attachedSlot I i p)).unwired =
      samples.foldl (fun y smp => tickSlot I smp y) { EncSlot.reset with attached := true } :=
  (List.foldl_hom EncSlot.unwired fun y smp => tickSlot_unwired I smp y).symm

/-- A slot attached and then ticked is the fold of the ticks over the slot as QD_ATTACH creates it. -/
theorem afterAll_attach_ticks (i : EncId) (p : Byte) (samples : List Sample) (s : State) :
    (afterAll (.qdAttach (BitVec.ofNat 8 i.val) p :: samples.map (.qdTick (BitVec.ofNat 8 i.val))) s).enc.get i =
      samples.foldl (fun y smp => tickSlot s.inst smp y) (attachedSlot s.inst i p) := by
  have hattach : after (.qdAttach (BitVec.ofNat 8 i.val) p) s =
      { s with enc := s.enc.set i (attachedSlot s.inst i p), result := .none } :=
    qdAttach_of_some (encId?_ofNat i) p s
  have hslot := PerEnc.get_set_self s.enc i (attachedSlot s.inst i p)
  rw [afterAll_cons, hattach, (afterAll_ticks samples (by rw [hslot]; rfl)).1, hslot]

end Sys2Proof.Machine

open Sys2Proof.Machine in
/-- Settles O23: the three branches of a tick, each with its own new position, direction and hold. -/
theorem qdTickAdvancesTheSlot : Obligations.QdTickAdvancesTheSlot := by
  intro s e smp j hj x P ha hfsm hP1 hP2 hH hne
  refine ⟨stateByte s.inst.par x.fsm smp, tickSlot s.inst smp x, qentry_eq_stateByte _ hfsm smp,
    congrArg _ (qdTick_of_attached (encId?_eq_some_iff.mpr hj) ha smp), ?fsm, (tickSlot_attached ..).trans ha,
    tickSlot_pinpair .., tickSlot_inv .., fun hev => ?pos, fun hev => ?neg, fun hp hn => ?none⟩
  case fsm => rw [tickSlot_fsm, nextField_toNat]
  case pos =>
    rw [tickSlot_of_evPos hev]
    exact ⟨positionAfter_pos_toNat hP1 hP2 x.pos, rfl, holdLoad_toNat hH⟩
  case neg =>
    rw [tickSlot_of_evNeg hne hev]
    exact ⟨positionAfter_neg_toNat hP1 hP2 x.pos, rfl, holdLoad_toNat hH⟩
  case none =>
    rw [tickSlot_of_no_event hp hn]
    exact ⟨rfl, noEvent_hold_toNat _, rfl⟩

open Sys2Proof.Machine in
/-- Settles O24: each QD_TICK of an attached slot leaves there what TIMER_IRQ leaves. -/
theorem timerIrqTicksTheAttachedSlots : Obligations.TimerIrqTicksTheAttachedSlots := by
  intro s s1 s0
  have h0 : s.enc.e0.attached = true → (after (.qdTick 0 s0) s).enc.e0 = tickSlot s.inst s0 s.enc.e0 := fun ha =>
    congrArg (·.enc.e0) (after_qdTick_ofNat (j := 0) ha s0)
  have h1 : s.enc.e1.attached = true → (after (.qdTick 1 s1) s).enc.e1 = tickSlot s.inst s1 s.enc.e1 := fun ha =>
    congrArg (·.enc.e1) (after_qdTick_ofNat (j := 1) ha s1)
  rw [exec_timerIrq, timerIrq_eq]
  refine ⟨fun ht => ?off, fun ht => ?on⟩
  case off => simp [ht]
  case on => rw [if_pos ht, ite_congr rfl h0 fun _ => rfl, ite_congr rfl h1 fun _ => rfl]

open Sys2Proof.Machine in
/-- Settles O26, by induction on the samples. -/
theorem positionStaysBelowPpr : Obligations.PositionStaysBelowPpr := by
  intro j samples s ha h1 h2 h
  rw [(afterAll_ticks samples ha).1]
  exact List.foldlRecOn (motive := fun y : EncSlot => y.pos.toNat < s.inst.cfg.rotaryPPR) samples _ h
    fun _ hy smp _ => tickSlot_pos_lt h1 h2 hy smp

open Sys2Proof.Machine in
/-- Settles O27: the two slots differ at most in their wiring. -/
theorem decodingIsDeterministic : Obligations.DecodingIsDeterministic := by
  intro i j p q samples s s' hI x x'
  have h : x.unwired = x'.unwired := by
    simp only [x, x', afterAll_attach_ticks, unwired_foldl_attachedSlot, hI]
  exact ⟨(congrArg EncSlot.pos h :), (congrArg EncSlot.dir h :)⟩
end

section
/-! The decoder as an automaton over its FSM state: which samples make it produce a detent event. The bounce law of the
default table (O28) and the hold countdown of event-free ticks (O29) follow. -/

namespace Sys2Proof.Machine

/-! ### The FSM of a slot (40_quadrature.md R67) -/

/-- The FSM state after one sample. -/
def fsmNext (p : Params) (f : Nibble) (smp : Sample) : Nibble := nextField (stateByte p f smp)

/-- Whether a sample makes a detent event in FSM state `f`. -/
def fsmEvent (p : Params) (f : Nibble) (smp : Sample) : Bool := eventField (stateByte p f smp) != 0

/-- How many detent events a sequence of samples makes from FSM state `f`. -/
def fsmDetents (p : Params) (f : Nibble) : List Sample → Nat
  | [] => 0
  | smp :: rest => (if fsmEvent p f smp then 1 else 0) + fsmDetents p (fsmNext p f smp) rest

/-- The detents of an attached slot are those of its FSM. -/
theorem detents_eq_fsmDetents {j : EncId} (samples : List Sample) {s : State} (ha : (s.enc.get j).attached = true) :
    detents j samples s = fsmDetents s.inst.par (s.enc.get j).fsm samples := by
  induction samples generalizing s with
  | nil => rfl
  | cons smp rest ih =>
    have hslot := PerEnc.get_set_self s.enc j (tickSlot s.inst smp (s.enc.get j))
    rw [detents, after_qdTick_ofNat ha, ih (by rw [hslot, tickSlot_attached, ha]), hslot, tickSlot_fsm]
    rfl

/-- The FSM of an attached slot after a sequence of ticks. -/
theorem afterAll_ticks_fsm {j : EncId} (samples : List Sample) {s : State} (ha : (s.enc.get j).attached = true) :
    ((afterAll (samples.map (.qdTick (BitVec.ofNat 8 j.val))) s).enc.get j).fsm =
      samples.foldl (fsmNext s.inst.par) (s.enc.get j).fsm := by
  rw [(afterAll_ticks samples ha).1]
  exact (List.foldl_hom EncSlot.fsm fun y smp => (tickSlot_fsm s.inst smp y).symm).symm

theorem afterAll_ticks_attached {j : EncId} (samples : List Sample) {s : State} (ha : (s.enc.get j).attached = true) :
    ((afterAll (samples.map (.qdTick (BitVec.ofNat 8 j.val))) s).enc.get j).attached = true := by
  rw [(afterAll_ticks samples ha).1]
  exact List.foldlRecOn (motive := fun y : EncSlot => y.attached = true) samples _ ha fun y hy smp _ =>
    (tickSlot_attached s.inst smp y).trans hy

/-! ### The default table under a bounce (R75) -/

/-- From FSM state `f` the samples x, y lead back to `f`, and neither makes a detent event. -/
structure QuietCycle (p : Params) (x y : Sample) (f : Nibble) : Prop where
  quiet_first : fsmEvent p f x = false
  quiet_second : fsmEvent p (fsmNext p f x) y = false
  returns : fsmNext p (fsmNext p f x) y = f

/-- Half a turn later the same cycle is one of y, x. -/
theorem QuietCycle.half {p : Params} {x y : Sample} {f : Nibble} (h : QuietCycle p x y f) :
    QuietCycle p y x (fsmNext p f x) where
  quiet_first := h.quiet_second
  quiet_second := by rw [h.returns]; exact h.quiet_first
  returns := by rw [h.returns]

/-- However long the alternation, a quiet cycle makes no detent event. -/
theorem QuietCycle.fsmDetents_eq_zero {p : Params} {x y : Sample} {f : Nibble} (h : QuietCycle p x y f) (n : Nat) :
    fsmDetents p f (alternation x y n) = 0 := by
  induction n generalizing x y f with
  | zero => rfl
  | succ n ih => simp [alternation, fsmDetents, h.quiet_first, ih h.half]

/-- A table entry does not depend on the parameters beside the table. -/
theorem stateByte_congr {p q : Params} (h : p.qtable = q.qtable) (f : Nibble) (smp : Sample) :
    stateByte p f smp = stateByte q f smp := by
  rw [stateByte, stateByte, qentry, qentry, h]

/-- What the default table does to an adjacent pair of samples, from each of its six states. -/
theorem exampleParams_settles : ∀ f : Nibble, f.toNat ≤ 5 → ∀ x y : Sample, (x ^^^ y = 1 ∨ x ^^^ y = 2) →
    let g := fsmNext exampleParams (fsmNext exampleParams f x) y
    fsmDetents exampleParams f [x, y] ≤ 1 ∧ fsmEvent exampleParams g x = false ∧
      fsmEvent exampleParams (fsmNext exampleParams g x) y = false ∧
      fsmNext exampleParams (fsmNext exampleParams g x) y = g := by decide

/-- With the default table an adjacent pair of samples makes at most one detent event and leads into a quiet cycle. -/
theorem defaultQTable_settles {p : Params} (hp : p.qtable = defaultQTable) {f : Nibble} (hf : f.toNat ≤ 5)
    {x y : Sample} (hxy : Adjacent x y) :
    fsmDetents p f [x, y] ≤ 1 ∧ QuietCycle p x y (fsmNext p (fsmNext p f x) y) := by
  have hbyte : stateByte p = stateByte exampleParams := funext₂ fun f smp => stateByte_congr hp f smp
  have hnext : fsmNext p = fsmNext exampleParams := by unfold fsmNext; rw [hbyte]
  have hevent : fsmEvent p = fsmEvent exampleParams := by unfold fsmEvent; rw [hbyte]
  obtain ⟨hcount, hquiet, hquiet', hreturns⟩ := exampleParams_settles f hf x y hxy
  refine ⟨?_, ?_, ?_, ?_⟩
  · simpa only [fsmDetents, hnext, hevent] using hcount
  · rwa [hnext, hevent]
  · rwa [hnext, hevent]
  · rwa [hnext]

/-! ### The hold countdown (R69) -/

theorem noEvent_iterate_hold_toNat (n : Nat) (x : EncSlot) : (noEvent^[n] x).hold.toNat = x.hold.toNat - n := by
  induction n with
  | zero => rfl
  | succ n ih => rw [Function.iterate_succ_apply', noEvent_hold_toNat, ih, Nat.sub_sub]

theorem noEvent_iterate_pos (n : Nat) (x : EncSlot) : (noEvent^[n] x).pos = x.pos := by
  induction n with
  | zero => rfl
  | succ n ih => rw [Function.iterate_succ_apply', noEvent_pos, ih]

/-- A loaded hold keeps the direction until it has run out. -/
theorem noEvent_iterate_dir {x : EncSlot} (h : 1 ≤ x.hold.toNat) (n : Nat) :
    (noEvent^[n] x).dir = if n < x.hold.toNat then x.dir else .zero := by
  induction n with
  | zero => rw [if_pos (by omega)]; rfl
  | succ n ih =>
    have hhold := noEvent_iterate_hold_toNat (n + 1) x
    rw [Function.iterate_succ_apply'] at hhold ⊢
    rw [noEvent_dir, ih]
    by_cases hn : n + 1 < x.hold.toNat
    · have h0 : (noEvent (noEvent^[n] x)).hold ≠ 0 := by intro h0; simp [h0] at hhold; omega
      rw [if_neg h0, if_pos (by omega), if_pos hn]
    · have h0 : (noEvent (noEvent^[n] x)).hold = 0 := BitVec.eq_of_toNat_eq (by rw [hhold]; simp; omega)
      rw [if_pos h0, if_neg hn]

/-- Without an event nothing reads the FSM state. -/
theorem noEvent_iterate_fsm (n : Nat) (x : EncSlot) (f : Nibble) :
    noEvent^[n] { x with fsm := f } = { noEvent^[n] x with fsm := f } := by
  induction n with
  | zero => rfl
  | succ n ih => rw [Function.iterate_succ_apply', Function.iterate_succ_apply', ih]; rfl

/-- A sample that makes no detent event only counts the hold down and advances the FSM. -/
theorem tickSlot_of_fsmEvent_false {I : Inst} (hp : I.par.evPos ≠ 0) (hn : I.par.evNeg ≠ 0) {x : EncSlot}
    {smp : Sample} (h : fsmEvent I.par x.fsm smp = false) :
    tickSlot I smp x = { noEvent x with fsm := fsmNext I.par x.fsm smp } := by
  have h0 : eventField (stateByte I.par x.fsm smp) = 0 := by simpa [fsmEvent] using h
  exact tickSlot_of_no_event (h0.trans_ne hp.symm) (h0.trans_ne hn.symm)

/-- Event-free samples count the hold down once each, and beside that move the FSM only. -/
theorem foldl_tickSlot_of_no_detent {I : Inst} (hp : I.par.evPos ≠ 0) (hn : I.par.evNeg ≠ 0) (samples : List Sample)
    {x : EncSlot} (h : fsmDetents I.par x.fsm samples = 0) :
    ∃ f, samples.foldl (fun y smp => tickSlot I smp y) x = { noEvent^[samples.length] x with fsm := f } := by
  induction samples generalizing x with
  | nil => exact ⟨x.fsm, rfl⟩
  | cons smp rest ih =>
    obtain ⟨hsmp, hrest⟩ := Nat.add_eq_zero_iff.mp h
    have htick := tickSlot_of_fsmEvent_false hp hn (x := x) (smp := smp) (by simpa using hsmp)
    obtain ⟨f, hf⟩ := ih (x := tickSlot I smp x) (by rwa [tickSlot_fsm])
    exact ⟨f, by rw [List.foldl_cons, hf, htick, noEvent_iterate_fsm, List.length_cons, Function.iterate_succ_apply]⟩

end Sys2Proof.Machine

open Sys2Proof.Machine in
/-- Settles O28: after two samples, which make at most one detent event, the FSM is in a quiet cycle. -/
theorem bounceGivesAtMostOneDetent : Obligations.BounceGivesAtMostOneDetent := by
  intro j s x y n hq _ _ ha hf hxy ticked
  have hfsm : ∀ k, ((ticked k).enc.get j).fsm = (alternation x y k).foldl (fsmNext s.inst.par) (s.enc.get j).fsm :=
    fun k => afterAll_ticks_fsm (alternation x y k) ha
  obtain ⟨hcount, hcycle⟩ := defaultQTable_settles hq hf hxy
  refine ⟨?atMostOne, ?eventFree, ?cycle⟩
  case atMostOne =>
    rw [detents_eq_fsmDetents _ ha]
    match n with
    | 0 => exact Nat.zero_le 1
    | 1 => simp only [alternation, fsmDetents]; split_ifs <;> decide
    | n + 2 =>
      have hrest := hcycle.fsmDetents_eq_zero n
      simp only [alternation, fsmDetents, hrest] at hcount ⊢
      exact hcount
  case eventFree =>
    rw [detents_eq_fsmDetents _ (afterAll_ticks_attached _ ha), hfsm 2, (afterAll_ticks (alternation x y 2) ha).2]
    exact hcycle.fsmDetents_eq_zero n
  case cycle =>
    simp only [hfsm, alternation, List.foldl_cons]
    rw [hcycle.returns]

open Sys2Proof.Machine in
/-- Settles O29: event-free ticks are iterations of `noEvent`. -/
theorem holdKeepsTheDirectionForItsTicks : Obligations.HoldKeepsTheDirectionForItsTicks := by
  intro j samples s ha hp hn hh hd x y
  rw [detents_eq_fsmDetents _ ha] at hd
  obtain ⟨f, hf⟩ := foldl_tickSlot_of_no_detent hp hn samples hd
  have hy : y = { noEvent^[samples.length] x with fsm := f } := (afterAll_ticks samples ha).1.trans hf
  have hdir := noEvent_iterate_dir hh samples.length
  rw [hy]
  exact ⟨noEvent_iterate_hold_toNat .., noEvent_iterate_pos .., fun hlt => hdir.trans (if_pos hlt),
    fun hle => hdir.trans (if_neg hle.not_gt)⟩
end

section
/-! The button reader (41_buttons.md): the frame of BTN_READ bit by bit, the three operations (O30), and the MAIN step of
the READ phase (O31). -/

namespace Sys2Proof.Machine

/-! ### The levels of the two ports (R76) -/

theorem getLsbD_rawLevels_port1 (n : PortNibble) (p1 p2 : Byte) {k : Nat} (hk : k < 8) :
    (rawLevels n p1 p2).getLsbD k = p1.getLsbD k := by
  cases n <;> exact BitVec.getLsbD_append.trans (if_pos hk)

theorem getLsbD_rawLevels_low_port2 (p1 p2 : Byte) {k : Nat} (hk : k < 4) :
    (rawLevels .low p1 p2).getLsbD (8 + k) = p2.getLsbD k :=
  BitVec.getLsbD_append.trans (by simp [hk])

theorem getLsbD_rawLevels_high_port2 (p1 p2 : Byte) {k : Nat} (hk : k < 4) :
    (rawLevels .high p1 p2).getLsbD (8 + k) = p2.getLsbD (4 + k) :=
  BitVec.getLsbD_append.trans (by simp [hk])

/-- A button is pressed exactly if its pin is low (R78). -/
theorem getLsbD_pressed (lv : Frame) {i : Nat} (hi : i < 12) : (~~~lv).getLsbD i = !lv.getLsbD i := by
  simp [hi]

/-! ### The operations and the step that reads -/

/-- The whole next state of BTN_READ (R78). -/
theorem btnRead_eq (lv : Frame) (s : State) :
    btnRead lv s = { s with pinmode := .inputPullup, frame := some (~~~lv), result := .frame (~~~lv) } := rfl

/-- A MAIN step whose operation does not fault leaves what the operation leaves, in the next phase (42_composer.md
R84). -/
theorem step_of_main {s t : State} {p1 p2 : Byte} {rest : List Request} (hf : s.fault = none)
    (hp : s.pending = .agent (.main p1 p2) :: rest)
    (ht : after (phaseInstr s.inst.par p1 p2 s.mphase) { s with pending := rest } = t) (hok : t.fault = none) :
    step s = .next { t with mphase := nextPhase s.mphase } := by
  have hphase : t.mphase = s.mphase := ht ▸ (after_effect _ { s with pending := rest }).mphase_eq
  calc step s
      = .next (afterAgent (.main p1 p2) (after (phaseInstr s.inst.par p1 p2 s.mphase) { s with pending := rest })) :=
        (step_of_agent hf hp).trans (runAgent_eq ..)
    _ = .next (advancePhase t) := by rw [ht]; rfl
    _ = .next { t with mphase := nextPhase s.mphase } := by rw [advancePhase_of_ok hok, hphase]

end Sys2Proof.Machine

open Sys2Proof.Machine in
/-- Settles O31: the READ phase runs BTN_READ on the levels of the two ports, and BTN_READ does not fault. -/
theorem readPhaseSamplesThePorts : Obligations.ReadPhaseSamplesThePorts := by
  intro s p1 p2 rest hf hread hp
  refine ⟨~~~rawLevels s.inst.par.portbNibble p1 p2, ?step, fun k hk => ?port1, fun k hk => ?port2⟩
  case step =>
    have hop : after (phaseInstr s.inst.par p1 p2 s.mphase) { s with pending := rest } =
        btnRead (rawLevels s.inst.par.portbNibble p1 p2) { s with pending := rest } := by rw [hread]; rfl
    rw [step_of_main hf hp hop hf, btnRead_eq, hread]
    rfl
  case port1 => rw [getLsbD_pressed _ (by omega), getLsbD_rawLevels_port1 _ _ _ hk]
  case port2 =>
    rw [getLsbD_pressed _ (by omega)]
    cases s.inst.par.portbNibble
    · rw [getLsbD_rawLevels_low_port2 _ _ hk]
    · rw [getLsbD_rawLevels_high_port2 _ _ hk]

open Sys2Proof.Machine in
/-- Settles O30: the frame of BTN_READ is the complement of the levels. -/
theorem buttonOperations : Obligations.ButtonOperations :=
  fun s lv => ⟨rfl, rfl, ~~~lv, fun _ hi => getLsbD_pressed lv hi, congrArg Host.Outcome.next (btnRead_eq lv s)⟩
end

section
/-! The composed word (O32, O33, O34), its two operations (O36, O37), and what every operation leaves alone: the MAIN
phase, which it does not read either, the parameters and configuration, and the pending requests (O9). -/

namespace Sys2Proof.Machine

/-! ### Compose (42_composer.md R80) -/

/-- A bit of the composed word is 0 exactly if it is set before the complement. -/
theorem compose_getLsbD_eq_false_iff (p : Params) (frame : Frame) (d0 d1 : Dir) (map : Mapping) (force : OutWord)
    (k : BitVec 4) :
    (compose p frame d0 d1 map force).getLsbD k.toNat = false ↔
      (buttonBits frame map 12).getLsbD k.toNat = true ∨ (fallbackBits p 0 d0).getLsbD k.toNat = true ∨
        (fallbackBits p 1 d1).getLsbD k.toNat = true ∨ force.getLsbD k.toNat = true := by
  have hk : k.toNat < 16 := k.isLt
  rw [compose, BitVec.getLsbD_not, decide_eq_true hk, Bool.true_and, Bool.not_eq_false']
  simp only [BitVec.getLsbD_or, Bool.or_eq_true, or_assoc]

/-- A bit of the button bits of a whole frame: some pressed button is mapped to it. -/
theorem buttonBits_frame_getLsbD (frame : Frame) (map : Mapping) (k : BitVec 4) :
    (buttonBits frame map 12).getLsbD k.toNat = true ↔
      ∃ i : Fin 12, frame.getLsbD i.val = true ∧ map[i] = some k := by
  rw [buttonBits_getLsbD]
  constructor
  · rintro ⟨i, hi, hf, hm⟩
    exact ⟨⟨i, hi⟩, hf, by simpa [hi] using hm⟩
  · rintro ⟨i, hf, hm⟩
    exact ⟨i.val, i.isLt, hf, by simpa using hm⟩

/-- With both directions 0 there are no fallback bits. -/
theorem compose_of_no_direction (p : Params) (frame : Frame) (map : Mapping) (force : OutWord) :
    compose p frame .zero .zero map force = ~~~(buttonBits frame map 12 ||| force) := by
  simp [compose, fallbackBits]

theorem entryBits_of_unmapped {map : Mapping} (h : ∀ i : Fin 12, map[i] = none) (n : Nat) :
    entryBits map[n]? = 0 := by
  by_cases hn : n < 12
  · have hi : map[n] = none := h ⟨n, hn⟩
    rw [Vector.getElem?_eq_getElem hn, hi]
    rfl
  · rw [Vector.getElem?_eq_none (Nat.not_lt.mp hn)]
    rfl

theorem buttonBits_of_unmapped {map : Mapping} (h : ∀ i : Fin 12, map[i] = none) (frame : Frame) (n : Nat) :
    buttonBits frame map n = 0 := by
  induction n with
  | zero => rfl
  | succ n ih => simp [buttonBits, ih, entryBits_of_unmapped h]

/-- With button 0 alone pressed the button bits are those of its map entry. -/
theorem buttonBits_button0 (map : Mapping) (n : Nat) : buttonBits 0x001 map (n + 1) = entryBits map[0]? := by
  induction n with
  | zero => simp [buttonBits]
  | succ n ih =>
    have hreleased : (0x001 : Frame).getLsbD (n + 1) = false := by simp [BitVec.getLsbD_one]
    rw [buttonBits, ih, hreleased]
    simp

/-! ### CMP_PUBLISH (R83) -/

theorem exec_cmpPublish_of_written {s : State} {f : Frame} {d0 d1 : Dir} (hf : s.frame = some f)
    (h0 : s.d.e0 = some d0) (h1 : s.d.e1 = some d1) :
    exec .cmpPublish s = .next { s with
      outw := some (compose s.inst.par f d0 d1 (activeMap s.inst) (activeForce s.inst)), result := .none } := by
  simp [cmpPublish, hf, h0, h1, returning, setOutw]

/-! ### No operation changes what it has no part in (R84; 10_state.md R17, R18) -/

theorem Effect.pending_eq {i : Instr} {s t : State} (h : Effect i s t) : t.pending = s.pending := by
  cases h <;> rfl

/-! ### No operation reads the MAIN phase (R84): each commutes with a change of the phase -/

theorem raise_setPhase (c : FaultCause) (p : MPhase) (s : State) : raise c (setPhase p s) = setPhase p (raise c s) :=
  rfl

theorem checkId_setPhase (e : Byte) (p : MPhase) (s : State) {k k' : EncId → State}
    (h : ∀ j, k' j = setPhase p (k j)) : checkId e (setPhase p s) k' = setPhase p (checkId e s k) := by
  rcases he : encId? e with _ | j
  · rw [checkId_of_none he, checkId_of_none he, raise_setPhase]
  · rw [checkId_of_some he, checkId_of_some he, h]

theorem checkAttached_setPhase (e : Byte) (p : MPhase) (s : State) {k k' : EncId → State}
    (h : ∀ j, k' j = setPhase p (k j)) : checkAttached e (setPhase p s) k' = setPhase p (checkAttached e s k) := by
  refine checkId_setPhase e p s fun j => ?_
  rw [setPhase_enc, h, raise_setPhase, apply_ite (setPhase p)]

theorem qdInit_setPhase (rate : BitVec 2) (p : MPhase) (s : State) :
    qdInit rate (setPhase p s) = setPhase p (qdInit rate s) := by
  unfold qdInit
  cases rateOfCode rate <;> rfl

theorem timerIrq_setPhase (s1 s0 : Sample) (p : MPhase) (s : State) :
    timerIrq s1 s0 (setPhase p s) = setPhase p (timerIrq s1 s0 s) := by
  rw [timerIrq_eq, timerIrq_eq]
  rfl

theorem cmpPublish_setPhase (p : MPhase) (s : State) : cmpPublish (setPhase p s) = setPhase p (cmpPublish s) := by
  simp only [cmpPublish, setPhase_frame, setPhase_d]
  split <;> rfl

/-- A read of a possibly undefined byte, whatever the phase. -/
theorem byteOrDraw_setPhase (v : Option Byte) (p : MPhase) (s : State) :
    byteOrDraw v (setPhase p s) = ((byteOrDraw v s).1, setPhase p (byteOrDraw v s).2) := by
  cases v <;> rfl

theorem replyAck_setPhase (v : Byte) (p : MPhase) (s : State) :
    replyAck v (setPhase p s) = setPhase p (replyAck v s) := by
  simp only [replyAck, loadReply, setPhase_mask, byteOrDraw_setPhase]
  rfl

theorem replyAt_setPhase (k : Fin 6) (b : Byte) (p : MPhase) (s : State) :
    replyAt k b (setPhase p s) = setPhase p (replyAt k b s) := by
  match k with
  | 0 => exact replyAck_setPhase ..
  | 1 =>
    simp only [replyAt, step1, setPhase_inst, replyAck_setPhase, apply_ite (setPhase p)]
    rfl
  | 2 =>
    simp only [replyAt, step2, outLow, setPhase_outw, byteOrDraw_setPhase, replyAck_setPhase]
  | 3 =>
    simp only [replyAt, step3, outHigh, setPhase_outw, byteOrDraw_setPhase, replyAck_setPhase]
  | 4 => exact replyAck_setPhase ..
  | 5 =>
    simp only [replyAt, stepIdle, loadReply, setPhase_mask, byteOrDraw_setPhase]
    rfl

theorem ps2Handler_setPhase (b : Byte) (p : MPhase) (s : State) :
    ps2Handler b (setPhase p s) = setPhase p (ps2Handler b s) := by
  rcases Bool.eq_false_or_eq_true s.ps2En with h | h
  · have hp : (setPhase p s).ps2En = true := h
    rw [ps2Handler_of_enabled h, ps2Handler_of_enabled hp]
    exact congrArg (setPs2Step _)
      (replyAt_setPhase (handlingStep s.ps2Step b) b p (setPs2Step (handlingStep s.ps2Step b) (emit .active s)))
  · have hp : (setPhase p s).ps2En = false := h
    rw [ps2Handler_of_disabled h, ps2Handler_of_disabled hp]

/-- PS2_RX, and so every wire class. -/
theorem ps2Rx_setPhase (b : Byte) (p : MPhase) (s : State) : ps2Rx b (setPhase p s) = setPhase p (ps2Rx b s) :=
  congrArg (returning .none) (ps2Handler_setPhase b p s)

theorem ps2Xchg_setPhase (b : Byte) (p : MPhase) (s : State) :
    ps2Xchg b (setPhase p s) = setPhase p (ps2Xchg b s) := by
  rcases Bool.eq_false_or_eq_true s.ps2En with h | h
  · have hp : (setPhase p s).ps2En = true := h
    rw [ps2Xchg_of_enabled h, ps2Xchg_of_enabled hp, setPhase_tx, byteOrDraw_setPhase]
    exact congrArg (returning _)
      (ps2Handler_setPhase b p (emit (.xchg b (byteOrDraw s.tx s).1) (byteOrDraw s.tx s).2))
  · have hp : (setPhase p s).ps2En = false := h
    rw [ps2Xchg_of_disabled h, ps2Xchg_of_disabled hp]
    rfl

theorem after_setPhase (i : Instr) (p : MPhase) (s : State) : after i (setPhase p s) = setPhase p (after i s) := by
  cases i with
  | qdInit rate => exact qdInit_setPhase rate p s
  | qdAttach e pinpair => exact checkId_setPhase e p s fun _ => rfl
  | qdTick e smp => exact checkAttached_setPhase e p s fun _ => rfl
  | timerIrq s1 s0 => exact timerIrq_setPhase s1 s0 p s
  | qdGetdir e => exact checkAttached_setPhase e p s fun _ => rfl
  | qdGetpos e => exact checkAttached_setPhase e p s fun _ => rfl
  | btnInit => rfl
  | btnRead lv => rfl
  | pinsOutput => rfl
  | cmpLatchdir e => exact checkAttached_setPhase e p s fun _ => rfl
  | cmpPublish => exact cmpPublish_setPhase p s
  | ps2Init => rfl
  | ps2Xchg b => exact ps2Xchg_setPhase b p s
  | ps2Rx b => exact ps2Rx_setPhase b p s
  | pollHeader => exact ps2Rx_setPhase _ p s
  | cmdMatch => exact ps2Rx_setPhase _ p s
  | cmdMismatch b => exact ps2Rx_setPhase b p s
  | data b => exact ps2Rx_setPhase b p s
  | idle b => exact ps2Rx_setPhase b p s

end Sys2Proof.Machine

open Sys2Proof Sys2Proof.Machine in
/-- Settles O32: before the complement the word is an OR of the buttons', the fallback and the forced bits. -/
theorem composeBitByBit : Obligations.ComposeBitByBit := by
  intro p frame d0 d1 map force k
  rw [compose_getLsbD_eq_false_iff, buttonBits_frame_getLsbD, fallbackBits_getLsbD, fallbackBits_getLsbD]
  simp only [PerEnc.get_zero, PerEnc.get_one, or_assoc]

open Sys2Proof.Machine in
/-- Settles O33: no button contributes a bit. -/
theorem unmappedCustomComposesToOnes : Obligations.UnmappedCustomComposesToOnes := by
  intro p frame map h
  rw [compose_of_no_direction, buttonBits_of_unmapped h]
  rfl

open Sys2Proof.Machine in
/-- Settles O34: button 0 contributes its entry's bit, and no other button is pressed. -/
theorem singleButtonComposes : Obligations.SingleButtonComposes := by
  intro p map k force h
  have hbits : buttonBits 0x001 map 12 = 1#16 <<< k.toNat := by
    have h0 : map[0]? = some (some k) := by rw [Vector.getElem?_eq_getElem (by decide)]; exact congrArg some h
    rw [buttonBits_button0, h0]
    rfl
  rw [compose_of_no_direction, compose_of_no_direction, hbits]
  exact ⟨rfl, by simp⟩

open Sys2Proof.Machine in
/-- Settles O36: the latch takes `visibleDir` of the slot. -/
theorem latchTakesTheVisibleDirection : Obligations.LatchTakesTheVisibleDirection := by
  intro s e j hj ha
  refine ⟨visibleDir (s.enc.get j), congrArg _ (cmpLatchdir_of_attached (encId?_eq_some_iff.mpr hj) ha),
    fun hi => by simp [visibleDir, hi], fun hi => ?inverted⟩
  case inverted =>
    rw [visibleDir, if_pos hi]
    cases (s.enc.get j).dir <;> decide

open Sys2Proof.Machine in
/-- Settles O37: CMP_PUBLISH writes the word where all latches are defined, and raises UNWRITTEN at the first that is
not. -/
theorem publishWritesTheComposedWord : Obligations.PublishWritesTheComposedWord := by
  intro s
  refine ⟨fun f d0 d1 hf h0 h1 => exec_cmpPublish_of_written hf h0 h1, fun hok hundef => ?_⟩
  rw [exec_cmpPublish]
  rcases cmpPublish_cases s with ⟨f, d0, d1, hf, h0, h1, -⟩ | ⟨hf, h⟩ | ⟨-, h0, h⟩ | ⟨-, -, h1, h⟩
  · simp [hf, h0, h1] at hundef
  · exact ⟨.frame, .inl ⟨rfl, hf⟩, by rw [h, raise_eq_faulted hok]⟩
  · exact ⟨.d0, .inr (.inl ⟨rfl, h0⟩), by rw [h, raise_eq_faulted hok]⟩
  · exact ⟨.d1, .inr (.inr ⟨rfl, h1⟩), by rw [h, raise_eq_faulted hok]⟩

open Sys2Proof.Machine in
/-- Settles O9: every operation commutes with a change of the phase, so it does not read it. -/
theorem operationsLeavePhaseAndInstance : Obligations.OperationsLeavePhaseAndInstance := by
  refine ⟨fun i s t h => ?leaves, fun i s t p h => ?ignores⟩ <;> rw [← after_of_exec h]
  case leaves =>
    have he := after_effect i s
    exact ⟨he.mphase_eq, he.inst_eq, he.pending_eq⟩
  case ignores =>
    calc exec i (setPhase p s)
        = .next (after i (setPhase p s)) := exec_eq_next_after i _
      _ = .next (setPhase p (after i s)) := by rw [after_setPhase]
end

section
/-! The MAIN sequencer (42_composer.md R84): a step runs the operation of its phase (O8), the five boot steps from reset
(O38) and the five steps of one iteration of the loop (O39). -/

namespace Sys2Proof.Machine

/-- A MAIN step carries out the operation of the phase, and `advancePhase` follows it. -/
theorem step_of_main_request {s : State} {p1 p2 : Byte} {rest : List Request} (hf : s.fault = none)
    (hp : s.pending = .agent (.main p1 p2) :: rest) :
    step s = .next (advancePhase (after (phaseInstr s.inst.par p1 p2 s.mphase) { s with pending := rest })) :=
  (step_of_agent hf hp).trans (runAgent_eq ..)

/-- A run that begins with a fault-free MAIN step in phase `ph` goes on from what the step leaves, in the next phase. -/
theorem steps_succ_of_main {s t s' : State} {ph : MPhase} {p1 p2 : Byte} {rest : List Request} (k : Nat)
    (hf : s.fault = none) (hph : s.mphase = ph) (hp : s.pending = .agent (.main p1 p2) :: rest)
    (ht : after (phaseInstr s.inst.par p1 p2 ph) { s with pending := rest } = t) (hok : t.fault = none)
    (hs' : { t with mphase := nextPhase ph } = s') : steps (k + 1) s = steps k s' := by
  subst hph hs'
  exact steps_succ_of_next (step_of_main hf hp ht hok) k

/-- Every rate code but the reserved one has a rate (30_encoding.md R56). -/
theorem rateOfCode_isSome : ∀ {code : BitVec 2}, code ≠ 0b11 → (rateOfCode code).isSome = true := by
  decide

theorem after_qdInit_of_rate {rate : BitVec 2} {r : TickRate} (h : rateOfCode rate = some r) (s : State) :
    after (.qdInit rate) s = { s with tmrRate := some r, tmrEn := true, result := .none } :=
  after_of_exec (exec_qdInit_of_rate h s)

end Sys2Proof.Machine

open Sys2Proof Sys2Proof.Machine in
/-- Settles O8: the table of phases is `phaseInstr` and `nextPhase`, and `advancePhase` looks at the fault register. -/
theorem mainStepRunsItsPhase : Obligations.MainStepRunsItsPhase := by
  intro s p1 p2 rest hf hp u i next hrow
  have hmap : (s.mphase, i, next) ∈
      [MPhase.bootQd, .bootAtt0, .bootAtt1, .bootBtn, .bootPs2, .read, .dir0, .dir1, .publish, .restore].map
        fun ph => (ph, phaseInstr s.inst.par p1 p2 ph, nextPhase ph) := hrow
  obtain ⟨ph, -, hph⟩ := List.mem_map.mp hmap
  cases hph
  refine ⟨_, exec_eq_next_after _ u, fun hok => step_of_main hf hp rfl hok, fun hfault => ?_⟩
  rw [step_of_main_request hf hp, advancePhase_of_fault hfault]

open Sys2Proof Sys2Proof.Machine in
/-- Settles O38, phase by phase: reset accepts no boot rate but a real one, and no other boot operation can fault. -/
theorem bootReachesTheLoop : Obligations.BootReachesTheLoop := by
  intro I hI m
  obtain ⟨-, -, hrate⟩ := hI.codes
  obtain ⟨rate, hr⟩ := Option.isSome_iff_exists.mp (rateOfCode_isSome hrate)
  have hok : (State.resetOf I).fault = none := by simp [State.resetOf, (resetCause_eq_none_iff I).mpr hI]
  refine ⟨rate, hr, ?_⟩
  let ask (n : Nat) : Request := .agent (.main (m n).1 (m n).2)
  calc steps 5 { State.resetOf I with pending := [ask 0, ask 1, ask 2, ask 3, ask 4] }
      = steps 4 { State.resetOf I with
          tmrEn := true, tmrRate := some rate, mphase := .bootAtt0, pending := [ask 1, ask 2, ask 3, ask 4] } :=
        steps_succ_of_main 4 hok rfl rfl (after_qdInit_of_rate hr _) hok rfl
    _ = steps 3 { State.resetOf I with
          tmrEn := true, tmrRate := some rate, mphase := .bootAtt1, pending := [ask 2, ask 3, ask 4],
          enc := ⟨attachedSlot I 0 I.par.pinpair.e0, EncSlot.reset⟩ } :=
        steps_succ_of_main 3 hok rfl rfl (qdAttach_of_some (j := 0) rfl _ _) hok rfl
    _ = steps 2 { State.resetOf I with
          tmrEn := true, tmrRate := some rate, mphase := .bootBtn, pending := [ask 3, ask 4],
          enc := ⟨attachedSlot I 0 I.par.pinpair.e0, attachedSlot I 1 I.par.pinpair.e1⟩ } :=
        steps_succ_of_main 2 hok rfl rfl (qdAttach_of_some (j := 1) rfl _ _) hok rfl
    _ = steps 1 { State.resetOf I with
          tmrEn := true, tmrRate := some rate, mphase := .bootPs2, pending := [ask 4], pinmode := .inputPullup
          enc := ⟨attachedSlot I 0 I.par.pinpair.e0, attachedSlot I 1 I.par.pinpair.e1⟩ } :=
        steps_succ_of_main 1 hok rfl rfl (after_of_exec (exec_btnInit _)) hok rfl
    _ = .next _ := steps_succ_of_main 0 hok rfl rfl (after_of_exec (exec_ps2Init _)) hok rfl

open Sys2Proof Sys2Proof.Machine in
/-- Settles O39, phase by phase: the two latched slots are attached, and CMP_PUBLISH finds what READ and the two latch
phases wrote. -/
theorem mainIterationPublishes : Obligations.MainIterationPublishes := by
  intro s p1 p2 rest m hok hread ha0 ha1 hp f d0 d1
  let ask (n : Nat) : Request := .agent (.main (m n).1 (m n).2)
  calc steps 5 s
      = steps 4 { s with
          pinmode := .inputPullup, frame := some f, result := .frame f, mphase := .dir0
          pending := ask 0 :: ask 1 :: ask 2 :: ask 3 :: rest } :=
        steps_succ_of_main 4 hok hread hp (after_of_exec (exec_btnRead _ _)) hok rfl
    _ = steps 3 { s with
          pinmode := .inputPullup, frame := some f, result := .none, mphase := .dir1
          d := ⟨some d0, s.d.e1⟩, pending := ask 1 :: ask 2 :: ask 3 :: rest } :=
        steps_succ_of_main 3 hok rfl rfl (cmpLatchdir_of_attached (j := 0) rfl ha0) hok rfl
    _ = steps 2 { s with
          pinmode := .inputPullup, frame := some f, result := .none, mphase := .publish
          d := ⟨some d0, some d1⟩, pending := ask 2 :: ask 3 :: rest } :=
        steps_succ_of_main 2 hok rfl rfl (cmpLatchdir_of_attached (j := 1) rfl ha1) hok rfl
    _ = steps 1 { s with
          pinmode := .inputPullup, frame := some f, result := .none, mphase := .restore
          d := ⟨some d0, some d1⟩, pending := ask 3 :: rest
          outw := some (compose s.inst.par f d0 d1 (activeMap s.inst) (activeForce s.inst)) } :=
        steps_succ_of_main 1 hok rfl rfl (after_of_exec (exec_cmpPublish_of_written rfl rfl rfl)) hok rfl
    _ = steps 0 { s with
          pinmode := .output, frame := some f, result := .none, mphase := .read
          d := ⟨some d0, some d1⟩, pending := rest
          outw := some (compose s.inst.par f d0 d1 (activeMap s.inst) (activeForce s.inst)) } :=
        steps_succ_of_main 0 hok rfl rfl (after_of_exec (exec_pinsOutput _)) hok rfl
    _ = _ := by rw [← hread]; rfl
end

section
/-! The PS2ProtocolEmulator: what one received byte leaves at each step (43_ps2.md R91 to R97), how the step advances
over a sequence of bytes (R98), and the exchanges of a poll (R88, R101). -/

namespace Sys2Proof.Machine

/-! ### One received byte -/

/-- Everything a read of a possibly undefined byte can do: without a value a byte is drawn, and the draw counted. -/
theorem byteOrDraw_eq (v : Option Byte) (s : State) :
    byteOrDraw v s = (v.getD (Config.freeByte s.draws),
      { s with draws := if v = none then s.draws + 1 else s.draws }) := by
  cases v <;> rfl

theorem ps2Rx_of_disabled {s : State} (h : s.ps2En = false) (b : Byte) : ps2Rx b s = { s with result := .none } := by
  rw [ps2Rx, ps2Handler_of_disabled h, returning]

/-- PS2_RX and a wire class that receives the same byte leave the same state (30_encoding.md R54). -/
theorem exec_eq_of_mem_receptions {i j : Instr} {b : Byte} {s t : State} (hi : i ∈ [.ps2Rx b, j])
    (hj : exec j s = .next (ps2Rx b s)) (ht : ps2Rx b s = t) : exec i s = .next t := by
  rw [← ht]
  simp only [List.mem_cons, List.not_mem_nil, or_false] at hi
  rcases hi with rfl | rfl
  · rfl
  · exact hj

/-- What a received byte leaves of `s`: the new step, the new reply and the events. -/
def received (k : Fin 6) (reply : Option Byte) (events : List Event) (s : State) : State :=
  { s with ps2Step := k, tx := reply, trace := s.trace ++ events, result := .none }

/-- An enabled handler whose step case is an acknowledged reply, in closed form. -/
theorem ps2Rx_of_replyAck {s : State} {b r m : Byte} {k : Fin 6} {n : Nat} (hen : s.ps2En = true)
    (hm : s.mask = some m) (hk : handlingStep s.ps2Step b = k)
    (hr : replyAt k b (setPs2Step k (emit .active s)) = replyAck r { setPs2Step k (emit .active s) with draws := n }) :
    ps2Rx b s = received (stepSucc k) (some (r ^^^ m)) [.active, .ack] { s with draws := n } := by
  have hmask : { setPs2Step k (emit .active s) with draws := n }.mask = some m := hm
  rw [ps2Rx, ps2Handler_of_enabled hen, hk, hr, replyAck_of_mask hmask]
  simp [returning, setPs2Step, emit, received]

/-! ### The step cases (R91 to R97) -/

section
variable {s : State} {m b : Byte}

theorem outLow_of_some {w : OutWord} (h : s.outw = some w) : outLow s = some (w.extractLsb' 0 8) := by
  rw [outLow, h, Option.map_some]

theorem outHigh_of_some {w : OutWord} (h : s.outw = some w) : outHigh s = some (w.extractLsb' 8 8) := by
  rw [outHigh, h, Option.map_some]

theorem outLow_of_none (h : s.outw = none) : outLow s = none := by rw [outLow, h, Option.map_none]

theorem outHigh_of_none (h : s.outw = none) : outHigh s = none := by rw [outHigh, h, Option.map_none]

theorem handlingStep_eq {k : Fin 6} (hb : b ≠ pollHeaderByte) (hk : s.ps2Step = k) :
    handlingStep s.ps2Step b = k :=
  (handlingStep_of_ne hb s.ps2Step).trans hk

theorem ps2Rx_of_handlingStep_zero (hen : s.ps2En = true) (hm : s.mask = some m) (hk : handlingStep s.ps2Step b = 0) :
    ps2Rx b s = received 1 (some (s.inst.par.id1 ^^^ m)) [.active, .ack] s :=
  ps2Rx_of_replyAck hen hm hk rfl

theorem ps2Rx_header (hen : s.ps2En = true) (hm : s.mask = some m) :
    ps2Rx pollHeaderByte s = received 1 (some (s.inst.par.id1 ^^^ m)) [.active, .ack] s :=
  ps2Rx_of_handlingStep_zero hen hm (handlingStep_header s.ps2Step)

theorem ps2Rx_command (hen : s.ps2En = true) (hm : s.mask = some m) (hk : s.ps2Step = 1) :
    ps2Rx cmdByte s = received 2 (some (s.inst.par.id2 ^^^ m)) [.active, .ack] s :=
  ps2Rx_of_replyAck hen hm (handlingStep_eq (by decide) hk) rfl

theorem ps2Rx_mismatch (hen : s.ps2En = true) (hb : b ≠ pollHeaderByte) (hc : b ≠ cmdByte) (hk : s.ps2Step = 1) :
    ps2Rx b s = received 2 none [.active] s :=
  ps2Rx_of_reply hen b (handlingStep_eq hb hk) (if_neg hc)

/-- Step 2, whether or not a word has been published. -/
theorem ps2Rx_low (hen : s.ps2En = true) (hm : s.mask = some m) (hb : b ≠ pollHeaderByte) (hk : s.ps2Step = 2) :
    ps2Rx b s = received 3 (some ((outLow s).getD (Config.freeByte s.draws) ^^^ m)) [.active, .ack]
      { s with draws := if outLow s = none then s.draws + 1 else s.draws } :=
  ps2Rx_of_replyAck hen hm (handlingStep_eq hb hk) (by rw [replyAt, step2, byteOrDraw_eq]; rfl)

/-- Step 3, whether or not a word has been published. -/
theorem ps2Rx_high (hen : s.ps2En = true) (hm : s.mask = some m) (hb : b ≠ pollHeaderByte) (hk : s.ps2Step = 3) :
    ps2Rx b s = received 4 (some ((outHigh s).getD (Config.freeByte s.draws) ^^^ m)) [.active, .ack]
      { s with draws := if outHigh s = none then s.draws + 1 else s.draws } :=
  ps2Rx_of_replyAck hen hm (handlingStep_eq hb hk) (by rw [replyAt, step3, byteOrDraw_eq]; rfl)

theorem ps2Rx_low_of_published {w : OutWord} (hen : s.ps2En = true) (hm : s.mask = some m) (hb : b ≠ pollHeaderByte)
    (hk : s.ps2Step = 2) (hw : s.outw = some w) :
    ps2Rx b s = received 3 (some (w.extractLsb' 0 8 ^^^ m)) [.active, .ack] s := by
  rw [ps2Rx_low hen hm hb hk, outLow_of_some hw]
  rfl

theorem ps2Rx_high_of_published {w : OutWord} (hen : s.ps2En = true) (hm : s.mask = some m) (hb : b ≠ pollHeaderByte)
    (hk : s.ps2Step = 3) (hw : s.outw = some w) :
    ps2Rx b s = received 4 (some (w.extractLsb' 8 8 ^^^ m)) [.active, .ack] s := by
  rw [ps2Rx_high hen hm hb hk, outHigh_of_some hw]
  rfl

theorem ps2Rx_filler (hen : s.ps2En = true) (hm : s.mask = some m) (hb : b ≠ pollHeaderByte) (hk : s.ps2Step = 4) :
    ps2Rx b s = received 5 (some (fillerByte ^^^ m)) [.active, .ack] s :=
  ps2Rx_of_replyAck hen hm (handlingStep_eq hb hk) rfl

theorem ps2Rx_idle (hen : s.ps2En = true) (hm : s.mask = some m) (hb : b ≠ pollHeaderByte) (hk : s.ps2Step = 5) :
    ps2Rx b s = received 5 (some (fillerByte ^^^ m)) [.active] s :=
  ps2Rx_of_reply hen b (handlingStep_eq hb hk) (by rw [replyAt, stepIdle, loadReply_of_mask (m := m)]; exact hm)

end

/-! ### The step over a sequence of bytes (R91, R98) -/

/-- The step, as a number, after a byte received at step `n`. -/
def stepAfterByte (n : Nat) (b : Byte) : Nat := min ((if b = 0x01 then 0 else n) + 1) 5

/-- A received byte advances the step of an enabled emulator, and leaves it enabled. -/
theorem after_ps2Rx_step {s : State} (h : s.ps2En = true) (b : Byte) :
    (after (.ps2Rx b) s).ps2En = true ∧ (after (.ps2Rx b) s).ps2Step.val = stepAfterByte s.ps2Step.val b := by
  obtain ⟨k, v, l, n, heq, -, hk⟩ := ps2Rx_frame b s
  obtain ⟨rfl, -⟩ := hk h
  rw [after_of_exec (exec_ps2Rx b s), heq]
  exact ⟨h, congrArg (min (· + 1) 5) (apply_ite Fin.val (b = pollHeaderByte) 0 s.ps2Step)⟩

theorem afterAll_ps2Rx_step (bytes : List Byte) {s : State} (h : s.ps2En = true) :
    (afterAll (bytes.map .ps2Rx) s).ps2Step.val = bytes.foldl stepAfterByte s.ps2Step.val := by
  induction bytes generalizing s with
  | nil => rfl
  | cons b bytes ih =>
    obtain ⟨hen, hstep⟩ := after_ps2Rx_step h b
    rw [List.map_cons, afterAll_cons, ih hen, hstep, List.foldl_cons]

/-- Without a header the step only counts, up to 5. -/
theorem foldl_stepAfterByte_of_no_header {bytes : List Byte} (h : ∀ b ∈ bytes, b ≠ 0x01) {n : Nat} (hn : n ≤ 5) :
    bytes.foldl stepAfterByte n = min (n + bytes.length) 5 := by
  induction bytes generalizing n with
  | nil => exact (Nat.min_eq_left hn).symm
  | cons b bytes ih =>
    obtain ⟨hb, hbytes⟩ := List.forall_mem_cons.mp h
    rw [List.foldl_cons, stepAfterByte, if_neg hb, ih hbytes (Nat.min_le_right ..), List.length_cons]
    omega

/-! ### Exchanges (R88) -/

/-- The byte an enabled emulator shifts out: the reply loaded before, or a free byte if there is none. -/
def misoOf (s : State) : Byte := s.tx.getD (Config.freeByte s.draws)

/-- The state in which the handler of an exchange runs: the byte is shifted out, and the exchange recorded. -/
def shiftedOut (b : Byte) (s : State) : State :=
  { s with
    trace := s.trace ++ [.xchg b (misoOf s)]
    draws := if s.tx = none then s.draws + 1 else s.draws }

/-- An exchange, enabled: the byte shifted out is the result, and the rest is PS2_RX. -/
theorem ps2Xchg_eq_ps2Rx {s : State} (h : s.ps2En = true) (b : Byte) :
    ps2Xchg b s = { ps2Rx b (shiftedOut b s) with result := .byte (misoOf s) } := by
  rw [ps2Xchg_of_enabled h, byteOrDraw_eq]
  rfl

/-- A run that begins with an exchange goes on from what PS2_RX leaves, with the byte shifted out as the result. -/
theorem steps_succ_of_exchange {s t s' : State} {b : Byte} {rest : List Request} (n : Nat) (hf : s.fault = none)
    (hen : s.ps2En = true) (hp : s.pending = .agent (.bus b) :: rest)
    (ht : ps2Rx b (shiftedOut b { s with pending := rest }) = t)
    (hs' : { t with result := .byte (misoOf s) } = s') : steps (n + 1) s = steps n s' := by
  subst ht hs'
  refine steps_succ_of_next ?_ n
  rw [step_of_agent_of_not_main hf hp rfl]
  exact congrArg _ (ps2Xchg_eq_ps2Rx (s := { s with pending := rest }) hen b)

/-- Where a poll of `s` stands: the requests still pending, the step, the reply loaded, the byte shifted out last, and
the events so far. -/
def polled (s : State) (pending : List Request) (k : Fin 6) (reply miso : Byte) (events : List Event) : State :=
  { s with
    pending := pending, ps2Step := k, tx := some reply, result := .byte miso, trace := s.trace ++ events
    draws := if s.tx = none then s.draws + 1 else s.draws }

/-- The events of an exchange whose reply is acknowledged. -/
def ackedExchange (b miso : Byte) : List Event := [.xchg b miso, .active, .ack]

/-- The first exchange of a poll shifts out the reply that stood loaded before it, or a free byte. -/
theorem steps_succ_of_first_exchange {s : State} {b r : Byte} {k : Fin 6} {l : List Event} {rest : List Request}
    (n : Nat) (hf : s.fault = none) (hen : s.ps2En = true) (hp : s.pending = .agent (.bus b) :: rest)
    (ht : ps2Rx b (shiftedOut b { s with pending := rest }) =
      received k (some r) l (shiftedOut b { s with pending := rest })) :
    steps (n + 1) s = steps n (polled s rest k r (misoOf s) (.xchg b (misoOf s) :: l)) :=
  steps_succ_of_exchange n hf hen hp ht (by simp [polled, received, shiftedOut, misoOf])

/-- The next exchange of a poll shifts out the reply that stands loaded. -/
theorem steps_succ_of_polled {s : State} {b r v miso : Byte} {k k' : Fin 6} {l l' : List Event} {rest : List Request}
    (n : Nat) (hf : s.fault = none) (hen : s.ps2En = true)
    (ht : ps2Rx b (shiftedOut b (polled s rest k v miso l)) =
      received k' (some r) l' (shiftedOut b (polled s rest k v miso l))) :
    steps (n + 1) (polled s (.agent (.bus b) :: rest) k v miso l) =
      steps n (polled s rest k' r v (l ++ .xchg b v :: l')) :=
  steps_succ_of_exchange n hf hen rfl ht (by simp [polled, received, shiftedOut, misoOf])

end Sys2Proof.Machine

open Sys2Proof Sys2Proof.Machine in
/-- Settles O51, exchange by exchange: each shifts out what the one before it loaded. -/
theorem fullPollReplies : Obligations.FullPollReplies := by
  intro s m w rest hf hen hm hw hp first
  let bus (b : Byte) : Request := .agent (.bus b)
  let id1 := s.inst.par.id1 ^^^ m
  let id2 := s.inst.par.id2 ^^^ m
  let low := w.extractLsb' 0 8 ^^^ m
  let high := w.extractLsb' 8 8 ^^^ m
  let filler := fillerByte ^^^ m
  let upToId2 := ackedExchange 0x01 first ++ ackedExchange 0x42 id1 ++ ackedExchange 0x00 id2
  have hdata : (0x00 : Byte) ≠ pollHeaderByte := by decide
  calc steps 6 s
      = steps 5 (polled s (bus 0x42 :: bus 0x00 :: bus 0x00 :: bus 0x00 :: bus 0x00 :: rest) 1 id1 first
          (ackedExchange 0x01 first)) :=
        steps_succ_of_first_exchange 5 hf hen hp (ps2Rx_header hen hm)
    _ = steps 4 (polled s (bus 0x00 :: bus 0x00 :: bus 0x00 :: bus 0x00 :: rest) 2 id2 id1
          (ackedExchange 0x01 first ++ ackedExchange 0x42 id1)) :=
        steps_succ_of_polled 4 hf hen (ps2Rx_command hen hm rfl)
    _ = steps 3 (polled s (bus 0x00 :: bus 0x00 :: bus 0x00 :: rest) 3 low id2 upToId2) :=
        steps_succ_of_polled 3 hf hen (ps2Rx_low_of_published hen hm hdata rfl hw)
    _ = steps 2 (polled s (bus 0x00 :: bus 0x00 :: rest) 4 high low (upToId2 ++ ackedExchange 0x00 low)) :=
        steps_succ_of_polled 2 hf hen (ps2Rx_high_of_published hen hm hdata rfl hw)
    _ = steps 1 (polled s (bus 0x00 :: rest) 5 filler high
          (upToId2 ++ ackedExchange 0x00 low ++ ackedExchange 0x00 high)) :=
        steps_succ_of_polled 1 hf hen (ps2Rx_filler hen hm hdata rfl)
    _ = steps 0 (polled s rest 5 filler filler
          (upToId2 ++ ackedExchange 0x00 low ++ ackedExchange 0x00 high ++ [.xchg 0x00 filler, .active])) :=
        steps_succ_of_polled 0 hf hen (ps2Rx_idle hen hm hdata rfl)
    _ = _ := rfl

open Sys2Proof.Machine in
/-- Settles O43: every form of reception runs the handler, which is disabled. -/
theorem disabledEmulatorIgnoresBytes : Obligations.DisabledEmulatorIgnoresBytes := by
  intro s b h
  refine ⟨fun i hi => ?_, congrArg _ (ps2Xchg_of_disabled h b)⟩
  simp only [List.mem_cons, List.not_mem_nil, or_false] at hi
  rcases hi with rfl | rfl | rfl | rfl | rfl | rfl
  all_goals exact congrArg _ (ps2Rx_of_disabled h _)

open Sys2Proof.Machine in
/-- Settles O44: a header is handled at step 0. -/
theorem headerRestartsThePoll : Obligations.HeaderRestartsThePoll :=
  fun _ _ hen hm _ hi => exec_eq_of_mem_receptions hi rfl (ps2Rx_header hen hm)

open Sys2Proof.Machine in
/-- Settles O45: the step case of step 1, on each side of its test. -/
theorem commandByteIsChecked : Obligations.CommandByteIsChecked :=
  fun _ _ _ hen hm hk =>
    ⟨fun _ hi => exec_eq_of_mem_receptions hi rfl (ps2Rx_command hen hm hk),
      fun hb hc _ hi => exec_eq_of_mem_receptions hi rfl (ps2Rx_mismatch hen hb hc hk)⟩

open Sys2Proof.Machine in
/-- Settles O46: with a word published, steps 2 and 3 need no draw. -/
theorem dataStepsReply : Obligations.DataStepsReply := by
  intro s m b hen hm hb i hi
  refine ⟨fun hk => ?_, fun w hk hw => ?_, fun w hk hw => ?_, fun hk => ?_⟩ <;>
    refine exec_eq_of_mem_receptions hi rfl ?_
  · exact ps2Rx_of_handlingStep_zero hen hm (handlingStep_eq hb hk)
  · exact ps2Rx_low_of_published hen hm hb hk hw
  · exact ps2Rx_high_of_published hen hm hb hk hw
  · exact ps2Rx_filler hen hm hb hk

open Sys2Proof.Machine in
/-- Settles O47: the byte of an undefined word is drawn. -/
theorem unpublishedWordRepliesAFreeByte : Obligations.UnpublishedWordRepliesAFreeByte := by
  intro s m b hen hm hb hw i hi k hk
  refine exec_eq_of_mem_receptions hi rfl ?_
  simp only [List.mem_cons, List.not_mem_nil, or_false, Prod.mk.injEq] at hk
  rcases hk with ⟨hk, rfl⟩ | ⟨hk, rfl⟩
  · rw [ps2Rx_low hen hm hb hk, outLow_of_none hw]; rfl
  · rw [ps2Rx_high hen hm hb hk, outHigh_of_none hw]; rfl

open Sys2Proof.Machine in
/-- Settles O48: the step case of step 5, whose successor is 5 again. -/
theorem idleStepSendsUnacknowledgedFiller : Obligations.IdleStepSendsUnacknowledgedFiller :=
  fun _ _ _ hen hm hb hk _ hi => exec_eq_of_mem_receptions hi rfl (ps2Rx_idle hen hm hb hk)

open Sys2Proof.Machine in
/-- Settles O49: the step follows `stepAfterByte` along the bytes. -/
theorem stepSaturatesAtIdle : Obligations.StepSaturatesAtIdle := by
  intro bytes s hen k
  have hk : k = bytes.foldl stepAfterByte s.ps2Step.val := afterAll_ps2Rx_step bytes hen
  exact ⟨hk, fun h => hk.trans (foldl_stepAfterByte_of_no_header h (Nat.le_of_lt_succ s.ps2Step.isLt))⟩

open Sys2Proof.Machine in
/-- Settles O50: the exchange is PS2_RX after its XCHG event, whether the byte shifted out was loaded or drawn. -/
theorem exchangeShiftsOutTheLoadedReply : Obligations.ExchangeShiftsOutTheLoadedReply := by
  intro s b hen
  refine ⟨fun v htx => ⟨_, rfl, ?_⟩, fun htx => ⟨_, rfl, ?_⟩⟩ <;>
    rw [exec_ps2Xchg, ps2Xchg_eq_ps2Rx hen, shiftedOut, misoOf, htx] <;> rfl

open Sys2Proof.Machine in
/-- Settles O42: the comparison of the device mode is the decision of the equality. -/
theorem ps2InitFixesTheSession : Obligations.Ps2InitFixesTheSession :=
  fun _ => rfl
end

section
/-! Raising (60_exceptions.md R104, R105): what an operation leaves of the fault register (O12), and which operation
raises which code (O13). -/

namespace Sys2Proof.Machine

/-! ### One fault, and nothing else (R105) -/

/-- An operation raises a fault or leaves the fault register. -/
theorem Effect.raised_or_fault_eq {i : Instr} {s t : State} (h : Effect i s t) :
    (∃ c, t = raise c s) ∨ t.fault = s.fault := by
  cases h with
  | raised c => exact .inl ⟨c, rfl⟩
  | _ => exact .inr rfl

/-! ### Which operation raises which code (R104) -/

/-- `Raises i s k`: the operation `i` raises the code `k` from the state `s` (R104; 40_quadrature.md R64 and R65,
42_composer.md R83). -/
inductive Raises : Instr → State → FaultCode → Prop
  | badRate (s : State) : Raises (.qdInit 0b11) s .badRate
  | badEncoderId {i : Instr} (s : State) {e p : Byte} {smp : Sample}
      (hi : i ∈ [.qdAttach e p, .qdTick e smp, .qdGetdir e, .qdGetpos e, .cmpLatchdir e]) (he : 2 ≤ e.toNat) :
      Raises i s .badEncoderId
  | notAttached {i : Instr} {s : State} {e : Byte} {smp : Sample} {j : EncId}
      (hi : i ∈ [.qdTick e smp, .qdGetdir e, .qdGetpos e, .cmpLatchdir e]) (hj : e.toNat = j.val)
      (ha : (s.enc.get j).attached = false) : Raises i s .notAttached
  | unwritten {s : State} (h : s.frame = none ∨ s.d.e0 = none ∨ s.d.e1 = none) : Raises .cmpPublish s .unwritten

theorem Raises.fault {i : Instr} {s : State} {k : FaultCode} (h : Raises i s k) (hf : s.fault = none) :
    (after i s).fault = some k := by
  cases h with
  | badRate => exact raise_fault_none _ hf
  | badEncoderId _ hi he => rw [after_of_exec (exec_of_badEncoderId he hi s)]; exact raise_fault_none _ hf
  | notAttached hi hj ha =>
    obtain ⟨k, hk, -⟩ := exec_eq_checkAttached hi s
    rw [after_of_exec hk, checkAttached_of_unattached (encId?_eq_some_iff.mpr hj) ha]
    exact raise_fault_none _ hf
  | unwritten h =>
    obtain ⟨-, hraised⟩ := publishWritesTheComposedWord s
    obtain ⟨l, -, hl⟩ := hraised hf h
    rw [after_of_exec hl]
    rfl

theorem Raises.code_cases {i : Instr} {s : State} {k : FaultCode} (h : Raises i s k) :
    k = .badRate ∨ k = .badEncoderId ∨ k = .notAttached ∨ k = .unwritten := by
  cases h <;> simp

theorem fault_eq_of_after_eq {i : Instr} {s t : State} (h : after i s = t) (ht : t.fault = s.fault) :
    (after i s).fault = s.fault := by
  rw [h, ht]

theorem timerIrq_fault (s1 s0 : Sample) (s : State) : (timerIrq s1 s0 s).fault = s.fault := by rw [timerIrq_eq]

theorem ps2Rx_fault (b : Byte) (s : State) : (ps2Rx b s).fault = s.fault := by
  obtain ⟨k, v, l, n, h, -, -⟩ := ps2Rx_frame b s
  rw [h]

theorem ps2Xchg_fault (b : Byte) (s : State) : (ps2Xchg b s).fault = s.fault := by
  obtain ⟨k, v, l, n, r, h, -, -⟩ := ps2Xchg_frame b s
  rw [h]

/-- The four operations behind `check_attached` raise its two codes (40_quadrature.md R64). -/
theorem fault_eq_or_raises_of_checkAttached {i : Instr} {e : Byte} {smp : Sample}
    (hi : i ∈ [.qdTick e smp, .qdGetdir e, .qdGetpos e, .cmpLatchdir e]) (s : State) :
    (after i s).fault = s.fault ∨ ∃ k, Raises i s k := by
  obtain ⟨k, hk, hkf⟩ := exec_eq_checkAttached hi s
  rcases checkAttached_cases e s k with ⟨j, -, -, hc⟩ | ⟨c, ⟨he, -⟩ | ⟨⟨j, hj, ha⟩, -⟩, -⟩
  · exact .inl (fault_eq_of_after_eq ((after_of_exec hk).trans hc) (hkf j))
  · exact .inr ⟨_, .badEncoderId (p := 0) s (List.mem_cons_of_mem _ hi) (encId?_eq_none_iff.mp he)⟩
  · exact .inr ⟨_, .notAttached hi (encId?_eq_some_iff.mp hj) ha⟩

/-- Every operation leaves the fault register or raises one of the codes. -/
theorem fault_eq_or_raises (i : Instr) (s : State) : (after i s).fault = s.fault ∨ ∃ k, Raises i s k := by
  cases i with
  | qdInit rate =>
    by_cases hr : rate = 0b11
    · subst hr; exact .inr ⟨_, .badRate s⟩
    · obtain ⟨r, h⟩ := Option.isSome_iff_exists.mp (rateOfCode_isSome hr)
      exact .inl (fault_eq_of_after_eq (after_qdInit_of_rate h s) rfl)
  | qdAttach e p =>
    rcases he : encId? e with _ | j
    · exact .inr ⟨_, .badEncoderId (smp := 0) s List.mem_cons_self (encId?_eq_none_iff.mp he)⟩
    · exact .inl (fault_eq_of_after_eq (qdAttach_of_some he p s) rfl)
  | qdTick e smp => exact fault_eq_or_raises_of_checkAttached (e := e) (smp := smp) (by simp) s
  | qdGetdir e => exact fault_eq_or_raises_of_checkAttached (e := e) (smp := 0) (by simp) s
  | qdGetpos e => exact fault_eq_or_raises_of_checkAttached (e := e) (smp := 0) (by simp) s
  | cmpLatchdir e => exact fault_eq_or_raises_of_checkAttached (e := e) (smp := 0) (by simp) s
  | cmpPublish =>
    rcases cmpPublish_cases s with ⟨f, d0, d1, -, -, -, h⟩ | ⟨hf, -⟩ | ⟨-, h0, -⟩ | ⟨-, -, h1, -⟩
    · exact .inl (fault_eq_of_after_eq h rfl)
    · exact .inr ⟨_, .unwritten (.inl hf)⟩
    · exact .inr ⟨_, .unwritten (.inr (.inl h0))⟩
    · exact .inr ⟨_, .unwritten (.inr (.inr h1))⟩
  | timerIrq s1 s0 => exact .inl (timerIrq_fault s1 s0 s)
  | ps2Xchg b => exact .inl (ps2Xchg_fault b s)
  | ps2Rx b => exact .inl (ps2Rx_fault b s)
  | pollHeader => exact .inl (ps2Rx_fault _ s)
  | cmdMatch => exact .inl (ps2Rx_fault _ s)
  | cmdMismatch b => exact .inl (ps2Rx_fault b s)
  | data b => exact .inl (ps2Rx_fault b s)
  | idle b => exact .inl (ps2Rx_fault b s)
  | btnInit => exact .inl rfl
  | btnRead lv => exact .inl rfl
  | pinsOutput => exact .inl rfl
  | ps2Init => exact .inl rfl

/-- From a state without a fault the code in the register is the code the operation raises. -/
theorem after_fault_eq_some_iff {i : Instr} {s : State} (hf : s.fault = none) {k : FaultCode} :
    (after i s).fault = some k ↔ Raises i s k := by
  refine ⟨fun h => ?_, fun h => h.fault hf⟩
  rcases fault_eq_or_raises i s with he | ⟨k', hk'⟩
  · rw [he, hf] at h; cases h
  · obtain rfl : k' = k := Option.some.inj ((hk'.fault hf).symm.trans h)
    exact hk'

end Sys2Proof.Machine

open Sys2Proof.Machine in
/-- Settles O12: of everything an operation can leave, only a raised fault writes the fault register. -/
theorem faultsAreStickyAndStopTheBlock : Obligations.FaultsAreStickyAndStopTheBlock := by
  refine ⟨fun i s t h hs ht => ?recorded, fun i s t c h hs => ?sticky, fun s c hs => step_of_fault hs⟩ <;>
    obtain ⟨c', rfl⟩ | heq := (after_of_exec h ▸ after_effect i s : Effect i s t).raised_or_fault_eq
  case recorded.inl => exact ⟨c', raise_eq_faulted hs c'⟩
  case recorded.inr => exact absurd (heq.trans hs) ht
  case sticky.inl => exact raise_fault_some c' hs
  case sticky.inr => exact heq.trans hs

open Sys2Proof.Machine in
/-- Settles O13: `Raises` says for each code which operation raises it, and when. -/
theorem faultsRaisedExactly : Obligations.FaultsRaisedExactly := by
  intro i s hf
  refine ⟨after i s, exec_eq_next_after i s, ?_⟩
  simp only [after_fault_eq_some_iff hf]
  refine ⟨⟨?_, ?_⟩, ⟨?_, ?_⟩, ⟨?_, ?_⟩, ⟨?_, ?_⟩, ?no_other⟩
  · exact fun | .badRate _ => rfl
  · rintro rfl; exact .badRate s
  · exact fun | .badEncoderId _ hi he => ⟨_, _, _, hi, he⟩
  · rintro ⟨e, p, smp, hi, he⟩; exact .badEncoderId s hi he
  · exact fun | .notAttached hi hj ha => ⟨_, _, hi, _, hj, ha⟩
  · rintro ⟨e, smp, hi, j, hj, ha⟩; exact .notAttached hi hj ha
  · exact fun | .unwritten h => ⟨rfl, h⟩
  · rintro ⟨rfl, h⟩; exact .unwritten h
  case no_other =>
    rcases fault_eq_or_raises i s with he | ⟨k, hk⟩
    · exact .inl (he.trans hf)
    · obtain rfl | rfl | rfl | rfl := hk.code_cases <;> simp [hk]
end

section
/-! A reset that fails (O18, 60_exceptions.md R106, R107): construction is checked before configuration, and the first
broken constraint is the fault. -/

namespace Sys2Proof.Machine

theorem resetCause_of_illformed {I : Inst} (h : ¬ (TablesOk I.par ∧ CodesOk I.par)) :
    ∃ site, resetCause I = some (.tableIllformed site) := by
  rw [← firstIllformed_eq_none_iff] at h
  obtain ⟨site, hs⟩ := Option.ne_none_iff_exists'.mp h
  exact ⟨site, by rw [resetCause, hs]⟩

theorem resetCause_of_wellformed {I : Inst} (ht : TablesOk I.par) (hc : CodesOk I.par) :
    resetCause I = (firstBadField I).map .badConfig := by
  rw [resetCause, (firstIllformed_eq_none_iff I.par).mpr ⟨ht, hc⟩]

/-- RotaryPPR is the first field that the configuration check looks at (R106). -/
theorem firstBadField_of_illegal_ppr {I : Inst} (h : I.cfg.rotaryPPR = 0 ∨ 256 < I.cfg.rotaryPPR) :
    firstBadField I = some .rotaryPPR :=
  if_pos (by simp; omega)

theorem resetOf_fault_eq_none_iff (I : Inst) : (State.resetOf I).fault = none ↔ InstOk I := by
  rw [← resetCause_eq_none_iff]
  exact Option.map_eq_none_iff

theorem resetOf_of_cause {I : Inst} {c : FaultCause} (h : resetCause I = some c) :
    (State.resetOf I).fault = some c.code ∧ (State.resetOf I).trace = [.fault c] := by
  simp [State.resetOf, h]

end Sys2Proof.Machine

open Sys2Proof.Machine in
/-- Settles O18: reset records the cause that the two checks find, the construction check first. -/
theorem resetRejectsIllegalInstances : Obligations.ResetRejectsIllegalInstances := by
  intro I
  refine ⟨resetOf_fault_eq_none_iff I, fun h => ?illformed, fun ht hc h => ?badConfig, fun ht hc h => ?badPpr,
    fun h p => ?stuck⟩
  case illformed =>
    obtain ⟨site, hs⟩ := resetCause_of_illformed h
    exact (resetOf_of_cause hs).1
  case badConfig =>
    rw [← firstBadField_eq_none_iff] at h
    obtain ⟨field, hb⟩ := Option.ne_none_iff_exists'.mp h
    exact (resetOf_of_cause ((resetCause_of_wellformed ht hc).trans (congrArg (Option.map _) hb))).1
  case badPpr =>
    exact (resetOf_of_cause ((resetCause_of_wellformed ht hc).trans
      (congrArg (Option.map _) (firstBadField_of_illegal_ppr h)))).2
  case stuck =>
    obtain ⟨c, hc⟩ := Option.ne_none_iff_exists'.mp (mt (resetOf_fault_eq_none_iff I).mp h)
    exact ⟨c, step_of_fault hc⟩
end

section
/-! In the invariant no agent but a host accessor can fault (O40): MAIN's earlier phases have written what its operation
checks, and TIMER, BUS and the light driver check nothing. -/

namespace Sys2Proof.Machine

/-- The operation of MAIN's phase leaves the fault register (42_composer.md R84, 70_reset_and_hazards.md R120). -/
theorem BlockInv.phaseInstr_fault {s : State} (h : BlockInv s) (p1 p2 : Byte) :
    (after (phaseInstr s.inst.par p1 p2 s.mphase) s).fault = s.fault := by
  cases hph : s.mphase with
  | bootQd =>
    obtain ⟨-, -, hrate⟩ := h.inst_ok.codes
    obtain ⟨r, hr⟩ := Option.isSome_iff_exists.mp (rateOfCode_isSome hrate)
    exact fault_eq_of_after_eq (after_qdInit_of_rate hr s) rfl
  | bootAtt0 => exact fault_eq_of_after_eq (qdAttach_of_some (j := 0) rfl _ s) rfl
  | bootAtt1 => exact fault_eq_of_after_eq (qdAttach_of_some (j := 1) rfl _ s) rfl
  | dir0 =>
    have ha : s.enc.e0.attached = true := h.booted_slot0 (by simp [hph, MPhase.rank])
    exact fault_eq_of_after_eq (cmpLatchdir_of_attached (j := 0) rfl ha) rfl
  | dir1 =>
    have ha : s.enc.e1.attached = true := h.booted_slot1 (by simp [hph, MPhase.rank])
    exact fault_eq_of_after_eq (cmpLatchdir_of_attached (j := 1) rfl ha) rfl
  | publish =>
    obtain ⟨f, hf⟩ := Option.ne_none_iff_exists'.mp (h.read_frame (by simp [hph, MPhase.rank]))
    obtain ⟨d0, h0⟩ := Option.ne_none_iff_exists'.mp (h.latched_d0 (by simp [hph, MPhase.rank]))
    obtain ⟨d1, h1⟩ := Option.ne_none_iff_exists'.mp (h.latched_d1 (by simp [hph, MPhase.rank]))
    exact fault_eq_of_after_eq (after_of_exec (exec_cmpPublish_of_written hf h0 h1)) rfl
  | bootBtn | bootPs2 | read | restore => rfl

/-- An agent's operation that changes the fault register is an accessor whose id names no attached slot. -/
theorem BlockInv.accessor_of_fault {s : State} (h : BlockInv s) {a : AgentStep}
    (hf : (after (agentInstr s a) s).fault ≠ s.fault) :
    ∃ e, (a = .getDir e ∨ a = .getPos e) ∧ ∀ j : EncId, e.toNat = j.val → (s.enc.get j).attached = false := by
  cases a with
  | main p1 p2 => exact absurd (h.phaseInstr_fault p1 p2) hf
  | timer p1 p0 => exact absurd (timerIrq_fault _ _ s) hf
  | bus b => exact absurd (ps2Xchg_fault b s) hf
  | lightsOutput => exact absurd rfl hf
  | getDir e =>
    refine ⟨e, .inl rfl, fun j hj => Bool.eq_false_iff.mpr fun ha => hf ?_⟩
    exact fault_eq_of_after_eq (qdGetdir_of_attached (encId?_eq_some_iff.mpr hj) ha) rfl
  | getPos e =>
    refine ⟨e, .inr rfl, fun j hj => Bool.eq_false_iff.mpr fun ha => hf ?_⟩
    exact fault_eq_of_after_eq (qdGetpos_of_attached (encId?_eq_some_iff.mpr hj) ha) rfl

theorem afterAgent_fault (a : AgentStep) (s : State) : (afterAgent a s).fault = s.fault := by
  obtain ⟨p, h⟩ := afterAgent_frame a s
  rw [h]

end Sys2Proof.Machine

open Sys2Proof.Machine in
/-- Settles O40: the invariant stands in the state without the request, and what an agent does beside its operation
raises nothing. -/
theorem agentsFaultOnlyThroughAccessors : Obligations.AgentsFaultOnlyThroughAccessors := by
  intro s a rest h hf hp
  have hu : BlockInv { s with pending := rest } := { h with }
  refine ⟨_, (step_of_agent hf hp).trans (runAgent_eq ..), fun hfault => hu.accessor_of_fault (a := a) fun heq => ?_⟩
  exact hfault ((afterAgent_fault a _).trans (heq.trans hf))
end

section
/-! TIMER_IRQ and an exchange commute (O53, 60_exceptions.md R109): the exchange neither reads nor writes what a tick
writes, and a tick neither reads nor writes what the exchange writes. -/

namespace Sys2Proof.Machine

/-- The state with the elements that the byte-received handler reads or writes taken from `s`, and the others from `t`
(43_ps2.md R88 to R100; 20_memory.md R45). -/
def overlaySession (t s : State) : State :=
  { t with
    inst := s.inst, outw := s.outw, ps2En := s.ps2En, mask := s.mask, ps2Step := s.ps2Step, tx := s.tx
    trace := s.trace, draws := s.draws }

/-! ### The handler commutes with any choice of the other elements -/

theorem byteOrDraw_overlaySession (v : Option Byte) (t s : State) :
    byteOrDraw v (overlaySession t s) = ((byteOrDraw v s).1, overlaySession t (byteOrDraw v s).2) := by
  cases v <;> rfl

theorem loadReply_overlaySession (v : Byte) (t s : State) :
    loadReply v (overlaySession t s) = overlaySession t (loadReply v s) := by
  have hm : (overlaySession t s).mask = s.mask := rfl
  simp only [loadReply, hm, byteOrDraw_overlaySession]
  rfl

theorem replyAck_overlaySession (v : Byte) (t s : State) :
    replyAck v (overlaySession t s) = overlaySession t (replyAck v s) :=
  congrArg (emit .ack) (loadReply_overlaySession v t s)

theorem replyAt_overlaySession (k : Fin 6) (b : Byte) (t s : State) :
    replyAt k b (overlaySession t s) = overlaySession t (replyAt k b s) := by
  have hlow : outLow (overlaySession t s) = outLow s := rfl
  have hhigh : outHigh (overlaySession t s) = outHigh s := rfl
  match k with
  | 0 => exact replyAck_overlaySession ..
  | 1 =>
    unfold replyAt step1
    split_ifs
    · exact replyAck_overlaySession ..
    · rfl
  | 2 => simp only [replyAt, step2, hlow, byteOrDraw_overlaySession, replyAck_overlaySession]
  | 3 => simp only [replyAt, step3, hhigh, byteOrDraw_overlaySession, replyAck_overlaySession]
  | 4 => exact replyAck_overlaySession ..
  | 5 => exact loadReply_overlaySession ..

theorem ps2Handler_overlaySession (b : Byte) (t s : State) :
    ps2Handler b (overlaySession t s) = overlaySession t (ps2Handler b s) := by
  rcases Bool.eq_false_or_eq_true s.ps2En with h | h
  · have ho : (overlaySession t s).ps2En = true := h
    rw [ps2Handler_of_enabled h, ps2Handler_of_enabled ho]
    exact congrArg (setPs2Step _) (replyAt_overlaySession _ b t (setPs2Step _ (emit .active s)))
  · have ho : (overlaySession t s).ps2En = false := h
    rw [ps2Handler_of_disabled h, ps2Handler_of_disabled ho]

/-! ### The two orders -/

/-- An exchange, the result apart. -/
theorem ps2Xchg_overlaySession (b : Byte) (t s : State) :
    { ps2Xchg b (overlaySession t s) with result := .none } =
      { overlaySession t (ps2Xchg b s) with result := .none } := by
  rcases Bool.eq_false_or_eq_true s.ps2En with h | h
  · have ho : (overlaySession t s).ps2En = true := h
    have htx : (overlaySession t s).tx = s.tx := rfl
    rw [ps2Xchg_of_enabled h, ps2Xchg_of_enabled ho, htx, byteOrDraw_overlaySession]
    exact (congrArg (returning .none)
      (ps2Handler_overlaySession b t (emit (.xchg b (byteOrDraw s.tx s).1) (byteOrDraw s.tx s).2)) :)
  · have ho : (overlaySession t s).ps2En = false := h
    rw [ps2Xchg_of_disabled h, ps2Xchg_of_disabled ho]
    rfl

/-- TIMER_IRQ writes nothing of the session. -/
theorem overlaySession_timerIrq (s1 s0 : Sample) (s : State) :
    overlaySession (timerIrq s1 s0 s) s = timerIrq s1 s0 s := by
  rw [timerIrq_eq]
  rfl

/-- TIMER_IRQ after an exchange ticks as before it: it reads nothing that the exchange writes. -/
theorem timerIrq_ps2Xchg (s1 s0 : Sample) (b : Byte) (s : State) :
    timerIrq s1 s0 (ps2Xchg b s) = overlaySession (timerIrq s1 s0 s) (ps2Xchg b s) := by
  obtain ⟨k, v, l, n, r, h, -, -⟩ := ps2Xchg_frame b s
  rw [h, timerIrq_eq, timerIrq_eq]
  rfl

end Sys2Proof.Machine

open Sys2Proof.Machine in
/-- Settles O53: both orders leave the ticked slots beside the session of the exchange. -/
theorem interruptOrderIsNotObservable : Obligations.InterruptOrderIsNotObservable := fun s s1 s0 b =>
  calc { ps2Xchg b (timerIrq s1 s0 s) with result := .none }
      = { ps2Xchg b (overlaySession (timerIrq s1 s0 s) s) with result := .none } := by rw [overlaySession_timerIrq]
    _ = { overlaySession (timerIrq s1 s0 s) (ps2Xchg b s) with result := .none } := ps2Xchg_overlaySession ..
    _ = { timerIrq s1 s0 (ps2Xchg b s) with result := .none } := by rw [timerIrq_ps2Xchg]
end

section
/-! What the agents' interleaving leaves open and what it does not (70_reset_and_hazards.md): a publish that falls
inside a poll (O52, R128), and MAIN, which steps again and again (O54, R132) and so comes to its PUBLISH phase (O41). -/

namespace Sys2Proof.Machine

/-! ### A publish as one step of a run (R128) -/

/-- A run that begins with the word of CMP_PUBLISH, all latches defined, goes on from the composed word. -/
theorem steps_succ_of_publish {s : State} {f : Frame} {d0 d1 : Dir} {rest : List Request} (n : Nat)
    (hok : s.fault = none) (hf : s.frame = some f) (h0 : s.d.e0 = some d0) (h1 : s.d.e1 = some d1)
    (hp : s.pending = .word 0x21000000 :: rest) :
    steps (n + 1) s = steps n { s with
      pending := rest
      outw := some (compose s.inst.par f d0 d1 (activeMap s.inst) (activeForce s.inst)), result := .none } := by
  have hd : decode 0x21000000 = .ok .cmpPublish := by decide
  refine steps_succ_of_next ?_ n
  rw [step_of_word hok hp hd]
  exact exec_cmpPublish_of_written hf h0 h1

/-! ### How a step counts down MAIN's wait (R132, log 17) -/

/-- No operation changes how long MAIN may still wait. -/
theorem Effect.mainDue_eq {i : Instr} {s t : State} (h : Effect i s t) : t.mainDue = s.mainDue := by
  cases h <;> rfl

/-- A step consumes the oldest request, or with none pending makes the free choice; it does nothing else to the requests
and to MAIN's wait. -/
theorem step_pending_and_wait {s t : State} (h : step s = .next t) :
    (∃ r, s.pending = r :: t.pending ∧ t.mainDue = s.mainDue) ∨
      (s.pending = [] ∧ t.pending = [] ∧ t.mainDue = (freeChoice s).2) := by
  obtain ⟨-, u, hu, ht⟩ := step_cases h
  have hkept : t.pending = u.pending ∧ t.mainDue = u.mainDue := by
    rcases ht with ⟨i, rfl⟩ | ⟨w, rfl⟩ | ⟨a, rfl⟩
    · exact ⟨(after_effect i u).pending_eq, (after_effect i u).mainDue_eq⟩
    · exact ⟨rfl, rfl⟩
    · obtain ⟨p, hp⟩ := afterAgent_frame a (after (agentInstr u a) u)
      rw [hp]
      exact ⟨(after_effect _ u).pending_eq, (after_effect _ u).mainDue_eq⟩
  obtain ⟨hpending, hwait⟩ := hkept
  rcases hu with ⟨r, rest, hp, rfl⟩ | ⟨hp, rfl⟩
  · exact .inl ⟨r, by rw [hpending, hp]; rfl, hwait⟩
  · exact .inr ⟨hp, hpending.trans hp, hwait⟩

/-- With nothing pending a step leaves nothing pending, and MAIN's wait as the free choice sets it. -/
theorem step_of_idle_pending_and_wait {s t : State} (hp : s.pending = []) (h : step s = .next t) :
    t.pending = [] ∧ t.mainDue = (freeChoice s).2 := by
  rcases step_pending_and_wait h with ⟨r, hr, -⟩ | ⟨-, ht⟩
  · rw [hp] at hr; cases hr
  · exact ht

theorem takesMain_of_idle {s : State} (hp : s.pending = []) : takesMain s = isMain (freeChoice s).1 := by
  simp [takesMain, hp]

/-- A run of `j + k` steps is a run of `j` steps followed by one of `k`. -/
theorem exists_steps_of_steps_add {j k : Nat} {s t : State} (h : steps (j + k) s = .next t) :
    ∃ u, steps j s = .next u ∧ steps k u = .next t := by
  induction j generalizing s with
  | zero => exact ⟨s, rfl, by rwa [Nat.zero_add] at h⟩
  | succ j ih =>
    rw [Nat.add_right_comm] at h
    obtain ⟨v, hv, hrest⟩ := exists_step_of_steps_succ h
    obtain ⟨u, hu, ht⟩ := ih hrest
    exact ⟨u, (steps_succ_of_next hv j).trans hu, ht⟩

/-- As many steps as requests are pending serve them all, and leave MAIN's wait. -/
theorem requests_served {s t : State} (h : steps s.pending.length s = .next t) :
    t.pending = [] ∧ t.mainDue = s.mainDue := by
  induction hl : s.pending generalizing s with
  | nil =>
    rw [hl] at h
    rw [← next_inj h]
    exact ⟨hl, rfl⟩
  | cons r rest ih =>
    rw [hl] at h
    obtain ⟨u, hu, hrest⟩ := exists_step_of_steps_succ h
    rcases step_pending_and_wait hu with ⟨r', hp, hwait⟩ | ⟨hp, -, -⟩
    · obtain ⟨-, rfl⟩ := List.cons.inj (hl.symm.trans hp)
      obtain ⟨hserved, hkept⟩ := ih hrest rfl
      exact ⟨hserved, hkept.trans hwait⟩
    · rw [hl] at hp; cases hp

/-- With nothing pending each step takes one off the drawn wait, and the step after the last is MAIN's. -/
theorem takesMain_after_idle_wait {n : Nat} {s t : State} (hp : s.pending = []) (hn : s.mainDue = some n)
    (h : steps n s = .next t) : takesMain t = true := by
  induction n generalizing s with
  | zero =>
    rw [← next_inj h, takesMain_of_idle hp]
    exact (freeChoice_of_due hn).1
  | succ n ih =>
    obtain ⟨u, hu, hrest⟩ := exists_step_of_steps_succ h
    obtain ⟨hidle, hwait⟩ := step_of_idle_pending_and_wait hp hu
    exact ih hidle (hwait.trans (freeChoice_of_waiting hn)) hrest

/-- Once the requests are served and the wait already drawn has passed, the next step is MAIN's. -/
theorem takesMain_after_wait {s t : State} {n : Nat} (hn : s.mainDue = some n)
    (h : steps (s.pending.length + n) s = .next t) : takesMain t = true := by
  obtain ⟨u, hserved, hidle⟩ := exists_steps_of_steps_add h
  obtain ⟨hp, hwait⟩ := requests_served hserved
  exact takesMain_after_idle_wait hp (hwait.trans hn) hidle

/-! ### A run ends in a fault, or MAIN steps in it again and again (R122, R132) -/

/-- A step answers a next state or finds the block stuck; nothing is refused. -/
theorem step_next_or_stuck (s : State) : (∃ t, step s = .next t) ∨ ∃ c, step s = .fault (.stuck c) := by
  rcases Option.eq_none_or_eq_some s.fault with hf | ⟨c, hf⟩
  · rcases nil_or_cons s.pending with hp | ⟨r, rest, hp⟩
    · exact .inl ⟨_, (step_of_idle hf hp).trans (runAgent_eq ..)⟩
    · rw [step_of_pending hf hp]
      rcases runRequest_cases r (setPending rest s) with ⟨i, -, h⟩ | ⟨w, -, h⟩ | ⟨a, -, h⟩ <;> exact .inl ⟨_, h⟩
  · exact .inr ⟨c, step_of_fault hf⟩

theorem exists_step_of_not_endsInAFault {s : State} (h : ¬ EndsInAFault s) :
    ∃ t, step s = .next t ∧ ¬ EndsInAFault t := by
  rcases step_next_or_stuck s with ⟨t, ht⟩ | ⟨c, hc⟩
  · exact ⟨t, ht, fun ⟨j, c, hj⟩ => h ⟨j + 1, c, (steps_succ_of_next ht j).trans hj⟩⟩
  · exact absurd ⟨1, c, by simp [steps, hc]⟩ h

/-- A run that does not end in a fault goes on for any number of steps, and then does not end in one either. -/
theorem exists_steps_of_not_endsInAFault {s : State} (h : ¬ EndsInAFault s) (k : Nat) :
    ∃ t, steps k s = .next t ∧ ¬ EndsInAFault t := by
  induction k generalizing s with
  | zero => exact ⟨s, rfl, h⟩
  | succ k ih =>
    obtain ⟨u, hu, hlive⟩ := exists_step_of_not_endsInAFault h
    rw [steps_succ_of_next hu]
    exact ih hlive

/-- In a run that does not end in a fault MAIN steps at some time: once the requests are served, MAIN is the free choice
or has a wait drawn, which passes. -/
theorem exists_takesMain {s : State} (h : ¬ EndsInAFault s) : ∃ m t, steps m s = .next t ∧ takesMain t = true := by
  obtain ⟨u, hu, hlive⟩ := exists_steps_of_not_endsInAFault h s.pending.length
  obtain ⟨hp, -⟩ := requests_served hu
  rcases freeChoice_cases u with ⟨-, p1, p2, hmain⟩ | ⟨n, -, hwaits⟩
  · exact ⟨_, u, hu, by rw [takesMain_of_idle hp, hmain]; rfl⟩
  · obtain ⟨v, hv, hlive'⟩ := exists_step_of_not_endsInAFault hlive
    obtain ⟨hp', hwait⟩ := step_of_idle_pending_and_wait hp hv
    obtain ⟨t, ht, -⟩ := exists_steps_of_not_endsInAFault hlive' n
    have hrun : steps (s.pending.length + (n + 1)) s = .next t :=
      (steps_add _ _ hu).trans ((steps_succ_of_next hv n).trans ht)
    exact ⟨_, t, hrun, takesMain_after_idle_wait hp' (by rw [hwait, hwaits]) ht⟩

/-! ### How a step moves MAIN's phase (42_composer.md R84) -/

/-- An agent step that does not fault advances the phase exactly if the agent is MAIN. -/
theorem runAgent_mphase {a : AgentStep} {s t : State} (h : runAgent a s = .next t) (hok : t.fault = none) :
    t.mphase = if isMain a then nextPhase s.mphase else s.mphase := by
  have hphase : (after (agentInstr s a) s).mphase = s.mphase := (after_effect _ s).mphase_eq
  obtain rfl := next_inj ((runAgent_eq a s).symm.trans h)
  cases a with
  | main p1 p2 =>
    rw [afterAgent_fault] at hok
    exact (congrArg State.mphase (advancePhase_of_ok hok)).trans (congrArg nextPhase hphase)
  | _ => exact hphase

/-- A word or a wire byte leaves the phase. -/
theorem runRequest_mphase {r : Request} {s t : State} (hr : ∀ a, r ≠ .agent a) (h : runRequest r s = .next t) :
    t.mphase = s.mphase := by
  rcases runRequest_cases r s with ⟨i, -, hi⟩ | ⟨w, -, hw⟩ | ⟨a, ha, -⟩
  · rw [← next_inj (hi.symm.trans h), (after_effect i s).mphase_eq]
  · rw [← next_inj (hw.symm.trans h), raise_mphase]
  · exact absurd ha (hr a)

/-- A step that does not fault advances the phase exactly if it is MAIN's. -/
theorem step_mphase {s t : State} (h : step s = .next t) (hok : t.fault = none) :
    t.mphase = if takesMain s then nextPhase s.mphase else s.mphase := by
  obtain ⟨hf, -⟩ := step_cases h
  rcases nil_or_cons s.pending with hp | ⟨r, rest, hp⟩
  · rw [step_of_idle hf hp] at h
    rw [takesMain_of_idle hp]
    exact runAgent_mphase (s := takeChoice s) h hok
  · rw [step_of_pending hf hp] at h
    cases r with
    | agent a =>
      have hmain : takesMain s = isMain a := by simp [takesMain, hp]
      rw [hmain]
      exact runAgent_mphase (s := setPending rest s) h hok
    | word w | wire b =>
      have hmain : takesMain s = false := by simp [takesMain, hp]
      rw [hmain]
      exact runRequest_mphase (s := setPending rest s) (fun _ => Request.noConfusion) h

/-! ### MAIN comes to the PUBLISH phase -/

/-- How many MAIN steps lead from a phase to PUBLISH (R84): eight from the first boot phase, fewer from any other. -/
def MPhase.toPublish : MPhase → Nat
  | .bootQd => 8
  | .bootAtt0 => 7
  | .bootAtt1 => 6
  | .bootBtn => 5
  | .bootPs2 => 4
  | .read => 3
  | .dir0 => 2
  | .dir1 => 1
  | .publish => 0
  | .restore => 4

theorem MPhase.toPublish_le (p : MPhase) : p.toPublish ≤ 8 := by cases p <;> decide

theorem MPhase.eq_publish_of_toPublish {p : MPhase} (h : p.toPublish = 0) : p = .publish := by
  cases p with
  | publish => rfl
  | _ => cases h

theorem toPublish_nextPhase (p : MPhase) (h : p ≠ .publish) : (nextPhase p).toPublish + 1 = p.toPublish := by
  cases p with
  | publish => exact absurd rfl h
  | _ => rfl

/-- No fault stands in a state whose run goes on to one without a fault: a fault would have stopped it. -/
theorem fault_eq_none_of_steps {k : Nat} {s t : State} (h : steps k s = .next t) (hok : t.fault = none) :
    s.fault = none := by
  cases k with
  | zero => rwa [next_inj h]
  | succ k =>
    obtain ⟨u, hu, -⟩ := exists_step_of_steps_succ h
    exact (step_cases hu).1

theorem mainSteps_succ_of_next {s t : State} (h : step s = .next t) (k : Nat) :
    mainSteps (k + 1) s = (if takesMain s then 1 else 0) + mainSteps k t := by
  simp [mainSteps, h]

/-- A fault-free run with as many MAIN steps as lead from the present phase to PUBLISH comes to PUBLISH. -/
theorem exists_publish_of_mainSteps {k : Nat} {s t : State} (h : steps k s = .next t) (hok : t.fault = none)
    (hm : s.mphase.toPublish ≤ mainSteps k s) : ∃ j u, j ≤ k ∧ steps j s = .next u ∧ u.mphase = .publish := by
  induction k generalizing s with
  | zero => exact ⟨0, s, le_rfl, rfl, MPhase.eq_publish_of_toPublish (Nat.le_zero.mp hm)⟩
  | succ k ih =>
    by_cases hph : s.mphase = .publish
    · exact ⟨0, s, Nat.zero_le _, rfl, hph⟩
    · obtain ⟨u, hu, hrest⟩ := exists_step_of_steps_succ h
      have hphase := step_mphase hu (fault_eq_none_of_steps hrest hok)
      have hnext := toPublish_nextPhase s.mphase hph
      have hcloser : u.mphase.toPublish ≤ mainSteps k u := by
        rw [mainSteps_succ_of_next hu] at hm
        rw [hphase]
        split_ifs at hm ⊢ <;> omega
      obtain ⟨j, v, hj, hv, hpv⟩ := ih hrest hcloser
      exact ⟨j + 1, v, Nat.succ_le_succ hj, (steps_succ_of_next hu j).trans hv, hpv⟩

end Sys2Proof.Machine

open Sys2Proof.Machine in
/-- Settles O41: every phase is at most eight MAIN steps from PUBLISH, and only MAIN moves the phase. -/
theorem eightMainStepsReachPublish : Obligations.EightMainStepsReachPublish := fun s _ _ h hok hm =>
  exists_publish_of_mainSteps h hok ((MPhase.toPublish_le s.mphase).trans hm)

open Sys2Proof Sys2Proof.Machine in
/-- Settles O52: the low byte was loaded before the publish, and step 3 reads the word again after it. -/
theorem publishInsideAPollMixesBytes : Obligations.PublishInsideAPollMixesBytes := by
  intro s m w f d0 d1 rest hok hen hm hk hw hf h0 h1 hp w'
  let bus : Request := .agent (.bus 0x00)
  let low := w.extractLsb' 0 8 ^^^ m
  let high := w'.extractLsb' 8 8 ^^^ m
  let filler := fillerByte ^^^ m
  let s2 := polled s (.word 0x21000000 :: bus :: bus :: rest) 3 low (misoOf s) (ackedExchange 0x00 (misoOf s))
  let s3 : State := { s2 with pending := bus :: bus :: rest, outw := some w', result := .none }
  have hdata : (0x00 : Byte) ≠ pollHeaderByte := by decide
  have hrun : steps 4 s = .next (polled s3 rest 5 filler high (ackedExchange 0x00 low ++ ackedExchange 0x00 high)) :=
    calc steps 4 s
      _ = steps 3 s2 := steps_succ_of_first_exchange 3 hok hen hp (ps2Rx_low_of_published hen hm hdata hk hw)
      _ = steps 2 s3 := steps_succ_of_publish 2 hok hf h0 h1 rfl
      _ = steps 1 (polled s3 (bus :: rest) 4 high low (ackedExchange 0x00 low)) :=
          steps_succ_of_first_exchange 1 hok hen rfl (ps2Rx_high_of_published hen hm hdata rfl rfl)
      _ = steps 0 (polled s3 rest 5 filler high (ackedExchange 0x00 low ++ ackedExchange 0x00 high)) :=
          steps_succ_of_polled 0 hok hen (ps2Rx_filler hen hm hdata rfl)
  exact ⟨_, ackedExchange 0x00 (misoOf s), hrun, rfl, rfl⟩

open Sys2Proof.Machine in
/-- Settles O54: every point of a run without a fault has a later MAIN step, and a wait once drawn only counts down. -/
theorem mainIsWeaklyFair : Obligations.MainIsWeaklyFair := by
  intro s
  refine ⟨or_iff_not_imp_left.mpr fun hlive k => ?_, fun n t hn ht _ => takesMain_after_wait hn ht⟩
  obtain ⟨u, hu, hlive'⟩ := exists_steps_of_not_endsInAFault hlive k
  obtain ⟨m, t, ht, hmain⟩ := exists_takesMain hlive'
  exact ⟨k + m, t, Nat.le_add_right k m, (steps_add k m hu).trans ht, hmain⟩
end
